-- ==== Sys2Proof/Word.lean ====
section
/-! DEFINITION. The 32-bit word of the scan lanes (P24, rules R11, R64): every address, instruction word, control word
and store datum is one of these, and the block never splits one into bytes. -/

namespace Sys2Proof

/-- A 32-bit address, instruction word, control word or datum (rule R11; WORD, P24). -/
abbrev Word := BitVec 32

/-- The number of a target general register, as the `reg` operands name it (rule R81). -/
abbrev RegNum := BitVec 5

end Sys2Proof
end

