-- ==== Sys2Proof/Config.lean ====
section
/-! DEFINITION. The parameters P1 to P24 of rule R9, the constraints of rule R10 on them, and the values the spec leaves
open: the OPEN parameters and the free values of the target and the allocator. An opaque constant has no body, so no proof
can see which value it is. -/

namespace Sys2Proof

/-- `S.mode`: the execution-mode preference (rule R21). -/
inductive Mode where
  | sync
  | batched
  deriving DecidableEq, Repr

/-- `S.isa`: the instruction-set flag (rule R25). -/
inductive Isa where
  | mips32
  | microMips
  deriving DecidableEq, Repr

/-- `S.endian`: the endianness flag (rule R25). -/
inductive Endian where
  | big
  | little
  deriving DecidableEq, Repr

/-- The members of SCRATCH_SET, P21 = {8, 9, 10, 15} (rules R9, R22, R335; conflict C1). -/
inductive Scratch where
  | r8
  | r9
  | r10
  | r15
  deriving DecidableEq, Repr

/-- The IR instruction codes P8 (rule R88): which data register the next scan reaches. The numbers are the spec's
general-knowledge defaults (D7). -/
structure IrCodes where
  address : Nat := 0x08
  data : Nat := 0x09
  control : Nat := 0x0A
  all : Nat := 0x0B
  fastdata : Nat := 0x0E
  deriving DecidableEq, Repr

/-- One word of FLUSH_SEQ (P17). NOP and J_TEXT are built for the instruction set in force (rule R94); any other
32-bit word is given as it stands. -/
inductive FlushWord where
  | nop
  | jText
  | raw (w : Word)
  deriving DecidableEq, Repr

/-- STORE_SCAN_LAG, P15: 0 or 1 (rule R222). -/
inductive ScanLag where
  | zero
  | one
  deriving DecidableEq, Repr

/-- SWAP16, P23: a truth value for each pair (isa, endian). It is OPEN for MICROMIPS; for MIPS32 the default is false
(rule R153). -/
structure Swap16 where
  mipsBig : Bool := false
  mipsLittle : Bool := false
  microBig : Bool
  microLittle : Bool
  deriving DecidableEq, Repr

/-- The parameters of rule R9 as plain data, with the defaults it gives. A field without a default is OPEN there.
P21 and P24 have one value each and are no fields; P22 is a function and stands below. -/
structure Params where
  /-- P1 TEXT_BASE -/
  textBase : Word := 0xFF200200#32
  /-- P2 PARAM_OUT_BASE -/
  paramOutBase : Word := 0xFF202000#32
  /-- P3 PARAM_OUT_WORDS, OPEN -/
  paramOutWords : Nat
  /-- P4 FASTDATA_AREA; no rule of the block reads it -/
  fastdataArea : Word := 0xFF200000#32
  /-- P5 PRACC_BIT -/
  praccBit : Fin 32 := 18
  /-- P6 PRNW_BIT -/
  prnwBit : Fin 32 := 19
  /-- P7 CTRL_BASE, OPEN -/
  ctrlBase : Word
  /-- P8 -/
  ir : IrCodes := {}
  /-- P9 RESTART_LIMIT -/
  restartLimit : Nat := 3
  /-- P10 RESTART_WINDOW; none is ∞ -/
  restartWindow : Option Nat := none
  /-- P11 RESYNC_CONSUMES_BUDGET -/
  resyncConsumesBudget : Bool := true
  /-- P12 PRE_RETURN_PAD_LIMIT -/
  preReturnPadLimit : Nat := 1
  /-- P13 POST_RETURN_PAD_LIMIT -/
  postReturnPadLimit : Nat := 10
  /-- P14 POLL_LIMIT, OPEN -/
  pollLimit : Nat
  /-- P15 STORE_SCAN_LAG -/
  storeScanLag : ScanLag := .zero
  /-- P16 QUEUE_CAPACITY, OPEN; none is ∞ -/
  queueCapacity : Option Nat
  /-- P17 FLUSH_SEQ -/
  flushSeq : List FlushWord := [.nop, .nop, .nop, .jText, .nop]
  /-- P18 FLUSH_EXTRA_MAX -/
  flushExtraMax : Nat := 2
  /-- P19 INITIAL_MODE -/
  initialMode : Mode := .sync
  /-- P20 PACING_CLOCKS, OPEN -/
  pacingClocks : Nat
  /-- P23 SWAP16, OPEN for MICROMIPS -/
  swap16 : Swap16
  deriving DecidableEq, Repr

/-- Why a configuration is rejected: one name for each constraint of rule R10, and for the types "natural ≥ 1" that
rule R9 gives P3, P14 and P16. -/
inductive ConfigError where
  | textBaseMisaligned
  | paramOutBaseMisaligned
  | windowsOutOfOrder
  | noOutWord
  | outWindowTooLong
  | ctrlBaseNotObserving
  | sameControlBits
  | noPoll
  | noCapacity
  deriving DecidableEq, Repr

/-- The constraints of rules R9 and R10, in one place: the first one broken, or none. (RESTART_LIMIT ≥ 0 holds of every
natural.) -/
def Params.problem? (p : Params) : Option ConfigError :=
  if p.textBase.toNat % 4 ≠ 0 then some .textBaseMisaligned
  else if p.paramOutBase.toNat % 4 ≠ 0 then some .paramOutBaseMisaligned
  else if ¬ p.textBase.toNat < p.paramOutBase.toNat then some .windowsOutOfOrder
  else if p.paramOutWords = 0 then some .noOutWord
  else if ¬ p.paramOutBase.toNat + 4 * p.paramOutWords ≤ 2 ^ 32 then some .outWindowTooLong
  else if p.ctrlBase.getLsbD p.praccBit = false then some .ctrlBaseNotObserving
  else if p.praccBit = p.prnwBit then some .sameControlBits
  else if p.pollLimit = 0 then some .noPoll
  else if p.queueCapacity = some 0 then some .noCapacity
  else none

/-- A configuration that meets rules R9 and R10. One that breaks a constraint cannot be built: this is how the model
rejects it. -/
structure Config extends Params where
  sound : toParams.problem? = none
  deriving DecidableEq, Repr

/-- Accept a configuration, or reject it by name (rule R10). -/
def Params.configure (p : Params) : Except ConfigError Config :=
  match h : p.problem? with
  | none => .ok { toParams := p, sound := h }
  | some e => .error e

/-! ## Open values -/

/-- OPEN P3 at session open, before it is brought into the range of rule R10. -/
opaque Config.openOutWords : Nat
/-- OPEN P7 at session open, before bit PRACC_BIT is set. -/
opaque Config.openCtrlBase : Word
/-- OPEN P14 at session open, less one. -/
opaque Config.openPollLimit : Nat
/-- OPEN P16 at session open, less one where finite. -/
opaque Config.openCapacity : Option Nat
/-- OPEN P20 at session open. -/
opaque Config.openPacingClocks : Nat
/-- OPEN P23 under MICROMIPS and BIG. -/
opaque Config.openSwapBig : Bool
/-- OPEN P23 under MICROMIPS and LITTLE. -/
opaque Config.openSwapLittle : Bool

/-- P22 MM_ENC, OPEN (rule R94): the microMIPS NOP word. -/
opaque Config.mmNop : Word
/-- P22 MM_ENC, OPEN: the microMIPS LUI word of a register and an immediate. -/
opaque Config.mmLui : RegNum → BitVec 16 → Word
/-- P22 MM_ENC, OPEN: the microMIPS ORI word of rt, rs and an immediate. -/
opaque Config.mmOri : RegNum → RegNum → BitVec 16 → Word
/-- P22 MM_ENC, OPEN: the microMIPS jump word of a target address. -/
opaque Config.mmJ : Word → Word
/-- P22 MM_ENC, OPEN: the microMIPS branch word of an offset. -/
opaque Config.mmB : BitVec 16 → Word

/-- Free value: the n-th word a scan captures from the target beyond the answers already laid down (rule R142). -/
opaque Config.freeWord : Nat → Word
/-- Free value: the n-th transport or allocation draw beyond those already laid down (rules R113, R141). -/
opaque Config.freeBit : Nat → Bool
/-- Free value: field `i` of what a queued scan of handle `h` shows before it has run, where rule R140 defines no value. -/
opaque Config.unrunWord : Nat → Nat → Word

/-- The parameters at session open: the defaults of rule R9, and an unknown value of each OPEN one. Every value that
rules R9 and R10 allow for an OPEN parameter is the value of this expression for some value of its constant. -/
def Config.bootParams : Params :=
  { paramOutWords := 1 + Config.openOutWords % 0x37F800
    ctrlBase := Config.openCtrlBase ||| 0x00040000#32
    pollLimit := 1 + Config.openPollLimit
    queueCapacity := Config.openCapacity.map (· + 1)
    pacingClocks := Config.openPacingClocks
    swap16 := { microBig := Config.openSwapBig, microLittle := Config.openSwapLittle } }

theorem Config.bootParams_sound : Config.bootParams.problem? = none := by
  have hc : (Config.openCtrlBase ||| 0x00040000#32).getLsbD 18 = true := by simp
  have hq : Config.openCapacity.map (· + 1) ≠ some 0 := by cases Config.openCapacity <;> simp
  have hw : 0xFF202000 + 4 * (1 + Config.openOutWords % 0x37F800) ≤ 2 ^ 32 := by omega
  simp [Params.problem?, Config.bootParams, hq]
  omega

/-- The configuration of `State.reset` (rule R331, log entries 2 and 4). -/
def Config.boot : Config := { toParams := Config.bootParams, sound := Config.bootParams_sound }

end Sys2Proof
end

