-- ==== Sys2Proof/Syntax.lean ====
section
/-! DEFINITION. The instructions: one constructor per row of spec/opcode_table.json, with its operands already taken out of
the bits (rules R80 to R93). The rows come from three decode surfaces: the host's command records, the control words the
block captures, and the MIPS32 words it emits. -/

namespace Sys2Proof

/-- The three decode surfaces of 30_encoding.md. -/
inductive Surface where
  /-- a host command record of three words (rule R80) -/
  | command
  /-- a captured EJTAG control word (rule R85) -/
  | control
  /-- a MIPS32 word that the block emits and the target executes (rules R89 to R93) -/
  | word
  deriving DecidableEq, Repr

/-- The instructions. -/
inductive Instr where
  /-- Q_INIT (rule R110) -/
  | qInit
  /-- Q_ADD: W1 instr, W2 store_addr (rule R111) -/
  | qAdd (instr storeAddr : Word)
  /-- Q_ADD_LI: reg, optimize, W1 value (rule R115) -/
  | qAddLi (reg : RegNum) (optimize : Bool) (value : Word)
  /-- EXEC (rule R170) -/
  | exec
  /-- FEED_UNCHECKED (rule R260) -/
  | feedUnchecked
  /-- SET_MODE (rule R261) -/
  | setMode (mode : Mode)
  /-- SET_SNAPSHOT: reg, W1 value (rule R262) -/
  | setSnapshot (reg : RegNum) (value : Word)
  /-- RECOVER: first, last (rule R263) -/
  | recover (first last : RegNum)
  /-- SET_ISA (rule R265) -/
  | setIsa (isa : Isa) (endian : Endian)
  /-- opcode 0x9, with whatever its other 28 bits are (rule R83) -/
  | reservedCmd9 (rest : BitVec 28)
  /-- opcodes 0xA and 0xB: `low` is bit 0 (rule R83) -/
  | reservedCmdAB (rest : BitVec 28) (low : BitVec 1)
  /-- opcodes 0xC to 0xF: `low` is bits 1 and 0 (rule R83) -/
  | reservedCmdCF (rest : BitVec 28) (low : BitVec 2)
  /-- a captured control word of class NOT_PENDING (rule R85) -/
  | ctrlNotPending (c : Word)
  /-- a captured control word of class FETCH (rule R85) -/
  | ctrlFetch (c : Word)
  /-- a captured control word of class STORE (rule R85) -/
  | ctrlStore (c : Word)
  /-- NOP (rule R89) -/
  | nop
  /-- LUI (rule R90) -/
  | lui (rt : RegNum) (imm : BitVec 16)
  /-- ORI (rule R91) -/
  | ori (rt rs : RegNum) (imm : BitVec 16)
  /-- J: `index` is bits 27 to 2 of the target (rule R92) -/
  | j (index : BitVec 26)
  /-- B, that is BEQ $0, $0, off (rule R93) -/
  | b (off : BitVec 16)
  deriving DecidableEq, Repr

/-- The surface an instruction belongs to. -/
def Instr.surface : Instr → Surface
  | .qInit | .qAdd _ _ | .qAddLi _ _ _ | .exec | .feedUnchecked | .setMode _ | .setSnapshot _ _ | .recover _ _
  | .setIsa _ _ | .reservedCmd9 _ | .reservedCmdAB _ _ | .reservedCmdCF _ _ => .command
  | .ctrlNotPending _ | .ctrlFetch _ | .ctrlStore _ => .control
  | .nop | .lui _ _ | .ori _ _ _ | .j _ | .b _ => .word

end Sys2Proof
end

