-- ==== Sys2Proof/WellFormed.lean ====
section
/-! DEFINITION. When an instruction is well formed. The operand types leave nothing to check but that a control word is of
the class its constructor names (rule R85). -/

namespace Sys2Proof

/-- Well-formedness under given positions of the handshake and direction bits (P5 and P6, rule R85). -/
def Instr.wfUnder (praccBit prnwBit : Fin 32) : Instr → Bool
  | .ctrlNotPending c => ! c.getLsbD praccBit
  | .ctrlFetch c => c.getLsbD praccBit && ! c.getLsbD prnwBit
  | .ctrlStore c => c.getLsbD praccBit && c.getLsbD prnwBit
  | .qInit | .qAdd _ _ | .qAddLi _ _ _ | .exec | .feedUnchecked | .setMode _ | .setSnapshot _ _ | .recover _ _
  | .setIsa _ _ | .reservedCmd9 _ | .reservedCmdAB _ _ | .reservedCmdCF _ _
  | .nop | .lui _ _ | .ori _ _ _ | .j _ | .b _ => true

/-- Well-formedness under the table's positions, bits 18 and 19 (the defaults of P5 and P6). -/
def Instr.wf (i : Instr) : Bool := i.wfUnder 18 19

end Sys2Proof
end

