-- ==== Sys2Proof/Decode.lean ====
section
/-! DEFINITION. Decoding on the three surfaces of 30_encoding.md, and after it the encoder written from the same tables
(rules R80 to R93). Decoding is total; what it rejects, it rejects by name. -/

namespace Sys2Proof

/-- Why a decoder rejects its words. -/
inductive DecodeError where
  /-- a command record with a 1 in a field its opcode does not use: illegal by rule R83 -/
  | unusedField (op : BitVec 4)
  /-- a 32-bit word that is none of the five the block builds (rules R84, R97: the block never decodes such a word) -/
  | notAnEmittedWord
  /-- not three words for a command record, or not one word on the other surfaces -/
  | wrongLength
  deriving DecidableEq, Repr

/-! ## Command records -/

/-- The four bits of the opcode, W0[3:0] (rule R81). -/
def opField (w0 : Word) : BitVec 4 := w0.extractLsb' 0 4

/-- `reg`, W0[8:4] (rule R81). -/
def regField (w0 : Word) : RegNum := w0.extractLsb' 4 5

/-- `reg2`, W0[13:9] (rule R81). -/
def reg2Field (w0 : Word) : RegNum := w0.extractLsb' 9 5

/-- The fields of W0 that an opcode does not use and that rule R81 requires to be 0, as a mask. A reserved opcode is illegal
whatever its fields hold (rule R83), so none is checked for it. -/
def unusedMask (op : BitVec 4) : Word :=
  match op.toNat with
  | 0 | 1 | 3 | 4 => 0xFFFFFFF0#32
  | 2 => 0xFFFFBE00#32
  | 5 => 0xFFFFBFF0#32
  | 6 => 0xFFFFFE00#32
  | 7 => 0xFFFFC000#32
  | 8 => 0xFFFF3FF0#32
  | _ => 0#32

/-- The command of a record whose unused fields are 0 (rule R82). -/
def commandOf (w0 w1 w2 : Word) : Instr :=
  match (opField w0).toNat with
  | 0 => .qInit
  | 1 => .qAdd w1 w2
  | 2 => .qAddLi (regField w0) (w0.getLsbD 14) w1
  | 3 => .exec
  | 4 => .feedUnchecked
  | 5 => .setMode (if w0.getLsbD 14 then .batched else .sync)
  | 6 => .setSnapshot (regField w0) w1
  | 7 => .recover (regField w0) (reg2Field w0)
  | 8 => .setIsa (if w0.getLsbD 14 then .microMips else .mips32) (if w0.getLsbD 15 then .little else .big)
  | 9 => .reservedCmd9 (w0.extractLsb' 4 28)
  | 10 | 11 => .reservedCmdAB (w0.extractLsb' 4 28) (w0.extractLsb' 0 1)
  | _ => .reservedCmdCF (w0.extractLsb' 4 28) (w0.extractLsb' 0 2)

/-- Decode a command record (rules R80 to R83). W1 and W2 are ignored by a command that does not use them. -/
def decodeCommand (w0 w1 w2 : Word) : Except DecodeError Instr :=
  if w0 &&& unusedMask (opField w0) = 0#32 then .ok (commandOf w0 w1 w2) else .error (.unusedField (opField w0))

/-! ## Captured control words -/

/-- The classes of rule R85. -/
inductive CtrlClass where
  | notPending
  | fetch
  | store
  deriving DecidableEq, Repr

/-- Scan-dispatch decode: the class of a captured control word (rule R85). No other bit of it is read. -/
def classify (praccBit prnwBit : Fin 32) (c : Word) : CtrlClass :=
  if c.getLsbD praccBit then (if c.getLsbD prnwBit then .store else .fetch) else .notPending

/-- The row of the opcode table a captured control word belongs to (rules R85, R97: every word has exactly one). -/
def decodeControl (praccBit prnwBit : Fin 32) (c : Word) : Instr :=
  match classify praccBit prnwBit c with
  | .notPending => .ctrlNotPending c
  | .fetch => .ctrlFetch c
  | .store => .ctrlStore c

/-! ## Emitted MIPS32 words -/

/-- Decode one of the five MIPS32 words the block builds (rules R89 to R93). -/
def decodeWord (w : Word) : Except DecodeError Instr :=
  if w = 0#32 then .ok .nop
  else if w.extractLsb' 21 11 = 0b00111100000#11 then .ok (.lui (w.extractLsb' 16 5) (w.extractLsb' 0 16))
  else if w.extractLsb' 26 6 = 0b001101#6 then
    .ok (.ori (w.extractLsb' 16 5) (w.extractLsb' 21 5) (w.extractLsb' 0 16))
  else if w.extractLsb' 26 6 = 0b000010#6 then .ok (.j (w.extractLsb' 0 26))
  else if w.extractLsb' 16 16 = 0x1000#16 then .ok (.b (w.extractLsb' 0 16))
  else .error .notAnEmittedWord

/-! ## All surfaces -/

/-- Decode the words that stand on a surface; the control surface uses the table's bits 18 and 19. -/
def decode : Surface → List Word → Except DecodeError Instr
  | .command, [w0, w1, w2] => decodeCommand w0 w1 w2
  | .control, [c] => .ok (decodeControl 18 19 c)
  | .word, [w] => decodeWord w
  | _, _ => .error .wrongLength

/-- The surface on which the host's table words are read. The table's rows carry no surface, and one 32-bit pattern may be
a row's on each of the three: a word is read as a command record if it is a legal or reserved one, else as an emitted word
if it is one, else as a control word. More than 32 bits can only be a command record. (log entry 9) -/
def tableSurface (nbits : Nat) (w0 : Word) : Surface :=
  if 32 < nbits then .command
  else
    match decodeCommand w0 0#32 0#32 with
    | .ok _ => .command
    | .error _ =>
      match decodeWord w0 with
      | .ok _ => .word
      | .error _ => .control

/-- The words of an instruction whose bits are `w`: W0 is bits 31..0, W1 bits 63..32, W2 bits 95..64, and every bit from
`nbits` up is 0. -/
def tableWord (nbits w k : Nat) : Word := BitVec.ofNat 32 (w % 2 ^ nbits / 2 ^ (32 * k))

/-- What the decoder reads from an instruction of the opcode table whose bits are `w`. -/
def decodeTableWord (nbits w : Nat) : Option Instr :=
  let w0 := tableWord nbits w 0
  let words :=
    match tableSurface nbits w0 with
    | .command => [w0, tableWord nbits w 1, tableWord nbits w 2]
    | .control | .word => [w0]
  match decode (tableSurface nbits w0) words with
  | .ok i => some i
  | .error _ => none

/-! ## Encoding -/

/-- W0 of a command from its fields (rule R81). -/
def commandWord (op : BitVec 4) (reg reg2 : RegNum) (b14 b15 : Bool) : Word :=
  0#16 ++ BitVec.ofBool b15 ++ BitVec.ofBool b14 ++ reg2 ++ reg ++ op

/-- NOP, `sll $0, $0, 0` (rule R89). -/
def nopWord : Word := 0#32

/-- LUI(rt, imm) (rule R90). -/
def luiWord (rt : RegNum) (imm : BitVec 16) : Word := 0b001111#6 ++ 0#5 ++ rt ++ imm

/-- ORI(rt, rs, imm) (rule R91). -/
def oriWord (rt rs : RegNum) (imm : BitVec 16) : Word := 0b001101#6 ++ rs ++ rt ++ imm

/-- J with bits 27..2 of its target (rule R92). -/
def jWord (index : BitVec 26) : Word := 0b000010#6 ++ index

/-- J(target) (rule R92). -/
def jTo (target : Word) : Word := jWord (target.extractLsb' 2 26)

/-- B(off), that is BEQ $0, $0, off (rule R93). -/
def bWord (off : BitVec 16) : Word := 0b000100#6 ++ 0#5 ++ 0#5 ++ off

/-- The words of an instruction on its surface (rules R80 to R93). -/
def encode : Instr → List Word
  | .qInit => [commandWord 0 0 0 false false, 0, 0]
  | .qAdd instr storeAddr => [commandWord 1 0 0 false false, instr, storeAddr]
  | .qAddLi reg optimize value => [commandWord 2 reg 0 optimize false, value, 0]
  | .exec => [commandWord 3 0 0 false false, 0, 0]
  | .feedUnchecked => [commandWord 4 0 0 false false, 0, 0]
  | .setMode mode => [commandWord 5 0 0 (mode == .batched) false, 0, 0]
  | .setSnapshot reg value => [commandWord 6 reg 0 false false, value, 0]
  | .recover first last => [commandWord 7 first last false false, 0, 0]
  | .setIsa isa endian => [commandWord 8 0 0 (isa == .microMips) (endian == .little), 0, 0]
  | .reservedCmd9 rest => [rest ++ 9#4, 0, 0]
  | .reservedCmdAB rest low => [rest ++ 0b101#3 ++ low, 0, 0]
  | .reservedCmdCF rest low => [rest ++ 0b11#2 ++ low, 0, 0]
  | .ctrlNotPending c => [c]
  | .ctrlFetch c => [c]
  | .ctrlStore c => [c]
  | .nop => [nopWord]
  | .lui rt imm => [luiWord rt imm]
  | .ori rt rs imm => [oriWord rt rs imm]
  | .j index => [jWord index]
  | .b off => [bWord off]

/-! ## The 96-bit batched record -/

/-- One 96-bit scan, shifted in or captured, as its three fields (rule R87; the rules work with the fields). -/
structure Record where
  ctrl : Word
  data : Word
  addr : Word
  deriving DecidableEq, Repr

/-- The 96 bits of a record: ctrl [31:0], data [63:32], addr [95:64] (rule R87, D36). -/
def packRecord (r : Record) : BitVec 96 := r.addr ++ r.data ++ r.ctrl

/-- The fields of 96 bits (rule R87). -/
def unpackRecord (v : BitVec 96) : Record :=
  { ctrl := v.extractLsb' 0 32, data := v.extractLsb' 32 32, addr := v.extractLsb' 64 32 }

end Sys2Proof
end

