-- ==== Sys2Proof/Machine/State.lean ====
section
/-! DEFINITION. The state, as plain data: the tuple (S, Q, E, OUT, LOG) of rule R20, the scan port, the parameters, the target
view, and the model's own fields (the running command, the inputs laid down, the inbox). `State.reset` is the machine right
after a session opens (rules R330, R331). -/

namespace Sys2Proof.Machine

/-! ## Results of a command -/

/-- Result kinds and, with `Kind.code`, the result codes (rules R290, R291). -/
inductive Kind where
  | ok
  | transport
  | desync
  | unexpectedReturn
  | resource
  | illegal
  deriving DecidableEq, Repr

/-- The complete list of reasons (rule R292). NONE is the absence of one. -/
inductive Reason where
  | transport
  | noAccess
  | unexpectedStore
  | storeRange
  | storeMisaligned
  | fetchMismatch
  | restartExhausted
  | secondReturn
  | finalAddr
  | preReturnPad
  | postReturnPad
  | batchNotPending
  | batchDirStoreExpected
  | batchDirFetchExpected
  | batchStoreAddr
  | batchFetchAddr
  | batchReturn
  | queueError
  | alloc
  | badOperand
  | illegalCommand
  deriving DecidableEq, Repr

/-- E.phase (rule R30). -/
inductive Phase where
  | idle
  | init
  | executing
  | finalCheck
  | restarting
  | passed
  | failed
  deriving DecidableEq, Repr

/-- S.diag (rule R309). -/
structure Diag where
  /-- none is NONE -/
  reason : Option Reason
  phase : Phase
  codeCount : Nat
  storePending : Nat
  restartCount : Nat
  ctrl : Word
  addr : Word
  deriving DecidableEq, Repr

/-! ## Session state S -/

/-- S.snap[r] and S.valid[r] for one r (rule R22). -/
structure SnapCell where
  value : Word
  valid : Bool
  deriving DecidableEq, Repr

/-- The snapshot file: one cell for each register of SCRATCH_SET (rule R22). -/
structure SnapFile where
  r8 : SnapCell
  r9 : SnapCell
  r10 : SnapCell
  r15 : SnapCell
  deriving DecidableEq, Repr

/-- The session S (rules R21 to R26). -/
structure Session where
  mode : Mode
  snap : SnapFile
  scratchSuspect : Bool
  lastCtrl : Word
  lastAddr : Word
  isa : Isa
  endian : Endian
  status : Kind
  diag : Diag
  deriving DecidableEq, Repr

/-! ## Queue state Q -/

/-- A queue entry (rules R27, R84); addr = 0 means that no store is expected. -/
structure Entry where
  instr : Word
  addr : Word
  deriving DecidableEq, Repr

/-- The queue Q (rules R27 to R29). -/
structure Queue where
  entries : List Entry
  storeCount : Nat
  error : Bool
  deriving DecidableEq, Repr

/-! ## Executor state E -/

/-- SOME(addr, h) of the one-slot deferred-read queue (rule R37). -/
structure Deferred where
  addr : Word
  handle : Nat
  deriving DecidableEq, Repr

/-- The kinds a fetch mismatch can have (rules R38, R191). -/
inductive Mismatch where
  | desync
  | unexpectedReturn
  deriving DecidableEq, Repr

/-- The executor E (rules R30 to R38). -/
structure Executor where
  phase : Phase
  codeCount : Nat
  storePending : Nat
  maxStoreAddr : Word
  restartCount : Nat
  resyncUsed : Bool
  pass : Bool
  pending : Option Deferred
  lastMismatch : Option Mismatch
  deriving DecidableEq, Repr

/-! ## Memory -/

/-- The output buffer OUT (rules R39, R60, R63): word-addressed, as (index, word) pairs in one canonical form. -/
abbrev Memory := List (Nat × Word)

/-- What an index that is not listed holds. At session open nothing is listed and every word is unspecified: any value, of
which the model picks this one (rules R39, R331, I5; DESIGN CHOICE 0, log entry 22). -/
def Memory.unlisted : Word := 0#32

/-- The canonical form of a memory: indices strictly rising, and no word listed that an unlisted index holds. -/
abbrev Memory.wf (m : Memory) : Prop := m.Pairwise (fun a b => a.1 < b.1) ∧ ∀ c ∈ m, c.2 ≠ Memory.unlisted

/-! ## The scan port -/

/-- The primitives of rule R140 as the block issues them, with what they shift in. -/
inductive PortOp where
  | setIR (code : Nat)
  | scan32 (v : Word)
  | scan32Q (v : Word)
  | scan96Q (r : Record)
  | execQueued
  | pace (clocks : Nat)
  deriving DecidableEq, Repr

/-- A scan that is queued and has not run (rule R140), by what the block keeps of its captured value. -/
inductive QueuedScan where
  /-- FEED or FINISH: the captured value is discarded (rules R146, R148) -/
  | discard
  /-- CAPTURE: the captured word is Value(h) (rule R147) -/
  | keep (h : Nat)
  /-- SCAN96: the captured record is Value(h) (rule R149) -/
  | keep96 (h : Nat)
  deriving DecidableEq, Repr

/-- The scan port (rule R140): the IR code selected, the scans queued (oldest first), the captured values by handle, and
everything issued so far (newest first). -/
structure Port where
  ir : Nat
  queued : List QueuedScan
  nextHandle : Nat
  captured : List (Nat × Word)
  captured96 : List (Nat × Record)
  trace : List PortOp
  deriving DecidableEq, Repr

/-! ## Inputs -/

/-- The free inputs (rules R113, R141, R142): answers already laid down, oldest first, and how many free values have been
drawn from Config since a list ran out. `words` are the captured words of blocking scans and of CAPTUREs in the order in
which those scans run, `fails` the transport draws of blocking scans and ExecQueueds, `records` the captured records of
batched scans, `allocs` the alloc_fail draws. -/
structure Input where
  words : List Word
  fails : List Bool
  records : List Record
  allocs : List Bool
  drawn : Nat
  deriving DecidableEq, Repr

/-- What may come next from outside: a command record of the host (rule R268), or a word the target executes (log entry
12). -/
inductive Msg where
  | command (w0 w1 w2 : Word)
  | targetExec (w : Word)
  deriving DecidableEq, Repr

/-! ## The running command -/

/-- Which command is running and, where it is a run of the recovery program, on whose account (rules R263, R298). -/
inductive Ctx where
  /-- EXEC in the synchronous executor -/
  | execSync
  /-- EXEC in the batched executor -/
  | execBatched
  /-- FEED_UNCHECKED -/
  | feed
  /-- the run of the recovery program by RECOVER first last -/
  | recover (first last : RegNum)
  /-- the run of the recovery program by the error exit of an EXEC that failed with the kind given -/
  | exitRecovery (kind : Kind)
  deriving DecidableEq, Repr

/-- What a WAIT_PRACC waits for an access for. -/
inductive Wait where
  /-- OBSERVE of a cycle, step S1 (rule R171) -/
  | cycle
  /-- the feed of FLUSH_SEQ[i] (rule R152) -/
  | flush (i : Nat)
  /-- OBSERVE of a round of FLUSH's extra loop, `j` rounds done (rule R152) -/
  | extra (j : Nat)
  /-- the feed of Q[k] by FEED_UNCHECKED (rule R260) -/
  | feed (k : Nat)
  deriving DecidableEq, Repr

/-- A slot of the batched plan (rule R222). -/
structure Slot where
  isStore : Bool
  k : Nat
  deriving DecidableEq, Repr

/-- The scan answer the running command waits for: its position between two micro-steps (rule R6). -/
inductive Point where
  /-- no command is running -/
  | idle
  /-- the control scan of a WAIT_PRACC, with `polls` polls done (rule R143) -/
  | poll (wait : Wait) (polls : Nat)
  /-- the address scan of an OBSERVE whose control word was `c`, of class STORE or FETCH (rules R144, R145) -/
  | addr (wait : Wait) (isStore : Bool) (c : Word)
  /-- the ExecQueued of DRAIN (rule R186) -/
  | drain
  /-- the ExecQueued that ends FEED_UNCHECKED (rule R260) -/
  | feedEnd
  /-- the ExecQueued of step B2, with the handle of each slot's scan (rule R221) -/
  | batch (plan : List (Slot × Nat))
  deriving DecidableEq, Repr

/-- The running command: none, or its context, the program it runs (Q, or the recovery program P of rule R263) and its
position. -/
structure Run where
  ctx : Option Ctx
  prog : List Entry
  point : Point
  deriving DecidableEq, Repr

/-! ## The target view -/

/-- What rules R90 to R93 say of the target: its general registers, its program counter, and the address after it, which
a delay slot sets apart. -/
structure Target where
  gpr : Vector Word 32
  pc : Word
  npc : Word
  deriving DecidableEq, Repr

/-! ## The state -/

/-- The whole machine. -/
structure State where
  /-- the parameters (rule R9); no step writes them -/
  cfg : Config
  /-- S -/
  ses : Session
  /-- Q -/
  que : Queue
  /-- E -/
  exe : Executor
  /-- OUT -/
  out : Memory
  /-- LOG (rule R40) -/
  log : List Record
  port : Port
  run : Run
  input : Input
  inbox : List Msg
  target : Target
  deriving DecidableEq, Repr

/-- No step of this machine faults: every error of the block is an error exit, a next state (rules R290 to R298). The type
has no constructor. -/
inductive Fault where
  deriving DecidableEq, Repr

/-- Why a step is refused. -/
inductive Refusal where
  /-- Raised by an arm of `exec` whose instruction has no meaning yet. Safe: nothing is proved of such a step. -/
  | notModelled (mnemonic : String)
  /-- Raised by `step` when the target is to execute a word that is none of the five of rules R89 to R93: the target is
  another core, and the spec gives the effect of no other word (rules R5, R97). Safe: nothing is proved of such a step. -/
  | targetWordUnspecified (w : Word)
  /-- Raised by `step` when the target is to execute a word while S.isa is MICROMIPS, whose words are OPEN (rule R94).
  Safe: nothing is proved of such a step. -/
  | targetMicroMipsOpen (w : Word)
  deriving DecidableEq, Repr

/-! ## Reset -/

/-- An invalid snapshot cell; its value is unspecified (DESIGN CHOICE 0, log entry 18). -/
def SnapCell.reset : SnapCell := { value := 0#32, valid := false }

/-- S.diag at reset: reason NONE; the other fields are unspecified (DESIGN CHOICE, log entry 20). -/
def Diag.reset : Diag :=
  { reason := none, phase := .idle, codeCount := 0, storePending := 0, restartCount := 0, ctrl := 0#32, addr := 0#32 }

/-- E at reset, and as every run of an executor initialises it but for the phase (rules R171, R221, R331). -/
def Executor.reset : Executor :=
  { phase := .idle, codeCount := 0, storePending := 0, maxStoreAddr := 0#32, restartCount := 0, resyncUsed := false,
    pass := false, pending := none, lastMismatch := none }

/-- No command is running. -/
def Run.reset : Run := { ctx := none, prog := [], point := .idle }

/-- The machine at the opening of a session with given parameters (rules R330, R331). -/
def State.resetWith (cfg : Config) : State :=
  { cfg := cfg
    ses :=
      { mode := cfg.initialMode
        snap := { r8 := .reset, r9 := .reset, r10 := .reset, r15 := .reset }
        scratchSuspect := false
        lastCtrl := 0#32
        lastAddr := 0#32
        isa := .mips32
        endian := .big
        status := .ok
        diag := .reset }
    que := { entries := [], storeCount := 0, error := false }
    exe := .reset
    out := []
    log := []
    port := { ir := 0, queued := [], nextHandle := 0, captured := [], captured96 := [], trace := [] }
    run := .reset
    input := { words := [], fails := [], records := [], allocs := [], drawn := 0 }
    inbox := []
    target := { gpr := Vector.replicate 32 0#32, pc := cfg.textBase, npc := cfg.textBase + 4#32 } }

/-- The machine right after reset, under the parameters of rule R9. -/
def State.reset : State := .resetWith Config.boot

end Sys2Proof.Machine
end

