-- ==== Sys2Proof/Machine/Operands.lean ====
section
/-! DEFINITION. Operand forms: addresses and windows (rules R61 to R63, R112), the registers of SCRATCH_SET (rule R22), and the
words the block builds or shifts out (rules R86, R89 to R94, R115, R152, R153, R264). -/

namespace Sys2Proof.Machine

/-! ## Addresses -/

/-- `TEXT_BASE +32 4 × k`: where entry `k` of a program is fetched (rule R62; the sum wraps). -/
def textAddr (cfg : Config) (k : Nat) : Word := cfg.textBase + BitVec.ofNat 32 (4 * k)

/-- Bits 1 and 0 of an address are 0 (rules R65, R112, R176). -/
def aligned (a : Word) : Bool := a.extractLsb' 0 2 == 0#2

/-- The text window [TEXT_BASE, PARAM_OUT_BASE) (rule R61). -/
def inTextWindow (cfg : Config) (a : Word) : Bool :=
  decide (cfg.textBase.toNat ≤ a.toNat) && decide (a.toNat < cfg.paramOutBase.toNat)

/-- The parameter-output window (rule R61). -/
def inOutWindow (cfg : Config) (a : Word) : Bool :=
  decide (cfg.paramOutBase.toNat ≤ a.toNat) && decide (a.toNat < cfg.paramOutBase.toNat + 4 * cfg.paramOutWords)

/-- `valid_store_addr(a)` (rule R112). -/
def validStoreAddr (cfg : Config) (a : Word) : Bool := aligned a && inOutWindow cfg a

/-- `idx(a) = (a -32 PARAM_OUT_BASE) >> 2` (rule R63). -/
def outIndex (cfg : Config) (a : Word) : Nat := ((a - cfg.paramOutBase) >>> 2).toNat

/-! ## The scratch registers -/

/-- The number of a scratch register (P21, rule R9). -/
def scratchNumber : Scratch → RegNum
  | .r8 => 8
  | .r9 => 9
  | .r10 => 10
  | .r15 => 15

/-- SCRATCH_SET in ascending order (P21, rule R9). -/
def scratchSet : List Scratch := [.r8, .r9, .r10, .r15]

/-- The member of SCRATCH_SET that a register number names, if it names one (rule R262). -/
def scratchOf (reg : RegNum) : Option Scratch := scratchSet.find? (fun r => scratchNumber r == reg)

/-- `S.snap[r]` and `S.valid[r]` (rule R22). -/
def snapGet (f : SnapFile) : Scratch → SnapCell
  | .r8 => f.r8
  | .r9 => f.r9
  | .r10 => f.r10
  | .r15 => f.r15

/-- Write `S.snap[r]` and `S.valid[r]` (rule R22). -/
def snapSet (f : SnapFile) (r : Scratch) (c : SnapCell) : SnapFile :=
  match r with
  | .r8 => { f with r8 := c }
  | .r9 => { f with r9 := c }
  | .r10 => { f with r10 := c }
  | .r15 => { f with r15 := c }

/-- Register numbers from `first` to `last`. -/
def inRange (first last reg : RegNum) : Bool := decide (first ≤ reg) && decide (reg ≤ last)

/-! ## Words the block builds, for the instruction set in force (rule R94) -/

/-- NOP (rules R89, R94). -/
def nopFor : Isa → Word
  | .mips32 => nopWord
  | .microMips => Config.mmNop

/-- LUI(rt, imm) (rules R90, R94). -/
def luiFor (isa : Isa) (rt : RegNum) (imm : BitVec 16) : Word :=
  match isa with
  | .mips32 => luiWord rt imm
  | .microMips => Config.mmLui rt imm

/-- ORI(rt, rs, imm) (rules R91, R94). -/
def oriFor (isa : Isa) (rt rs : RegNum) (imm : BitVec 16) : Word :=
  match isa with
  | .mips32 => oriWord rt rs imm
  | .microMips => Config.mmOri rt rs imm

/-- J(target) (rules R92, R94). -/
def jFor (isa : Isa) (target : Word) : Word :=
  match isa with
  | .mips32 => jTo target
  | .microMips => Config.mmJ target

/-- B(off) (rules R93, R94). -/
def bFor (isa : Isa) (off : BitVec 16) : Word :=
  match isa with
  | .mips32 => bWord off
  | .microMips => Config.mmB off

/-- The one or two words that load `value` into `reg`: the low half is tested first (rules R115, R118). -/
def liWords (isa : Isa) (reg : RegNum) (optimize : Bool) (value : Word) : List Word :=
  let hi := value.extractLsb' 16 16
  let lo := value.extractLsb' 0 16
  if optimize && lo == 0#16 then [luiFor isa reg hi]
  else if optimize && hi == 0#16 then [oriFor isa reg 0 lo]
  else [luiFor isa reg hi, oriFor isa reg reg lo]

/-- FLUSH_SEQ[i] for the instruction set in force (P17, rules R94, R152). Only indices inside FLUSH_SEQ are ever asked for;
the value beyond is NOP (log entry 30). -/
def flushWord (cfg : Config) (isa : Isa) (i : Nat) : Word :=
  match cfg.flushSeq[i]? with
  | some .jText => jFor isa cfg.textBase
  | some (.raw w) => w
  | some .nop | none => nopFor isa

/-- RECOVERY_PROGRAM(first, last) (rule R264): a load of each valid snapshot register of the range in ascending order, a
branch back to TEXT_BASE, and its delay slot; empty where no register is loaded. -/
def recoveryProgram (isa : Isa) (snap : SnapFile) (first last : RegNum) : List Entry :=
  let loads := scratchSet.flatMap fun r =>
    if inRange first last (scratchNumber r) && (snapGet snap r).valid then
      liWords isa (scratchNumber r) true (snapGet snap r).value
    else []
  if loads = [] then []
  else (loads ++ [bFor isa (-(BitVec.ofNat 16 (loads.length + 1))), nopFor isa]).map fun w => { instr := w, addr := 0#32 }

/-- Entry `k` of a program. Only indices inside the program are ever asked for; the value beyond is (0, 0) (log entry 30). -/
def entryAt (prog : List Entry) (k : Nat) : Entry := prog.getD k { instr := 0#32, addr := 0#32 }

/-! ## Words of the scan lane -/

/-- SWAP16(isa, endian) (P23, rule R153). -/
def swap16 (cfg : Config) : Isa → Endian → Bool
  | .mips32, .big => cfg.swap16.mipsBig
  | .mips32, .little => cfg.swap16.mipsLittle
  | .microMips, .big => cfg.swap16.microBig
  | .microMips, .little => cfg.swap16.microLittle

/-- `enc(w)`: an instruction word as it is shifted to a fetch (rule R153). -/
def encLane (cfg : Config) (isa : Isa) (endian : Endian) (w : Word) : Word :=
  if swap16 cfg isa endian then w.extractLsb' 0 16 ++ w.extractLsb' 16 16 else w

/-- `FIN = CTRL_BASE & ~(1 << PRACC_BIT)` (rule R86). -/
def finWord (cfg : Config) : Word := cfg.ctrlBase &&& ~~~(1#32 <<< cfg.praccBit.val)

end Sys2Proof.Machine
end

