-- ==== Sys2Proof/Machine/Flags.lean ====
section
/-! DEFINITION. Status values: result codes (rule R291), the kinds each reason may carry (rule R292), the kind of a fetch
mismatch (rule R191), the store count (rule R114), and the tests behind the status bits. The block has no flags register
(rule R41). -/

namespace Sys2Proof.Machine

/-- The result code of a kind (rules R290, R291). -/
def Kind.code : Kind → Nat
  | .ok => 0
  | .transport => 1
  | .desync => 2
  | .unexpectedReturn => 3
  | .resource => 4
  | .illegal => 5

/-- The kinds with which a reason may be raised (rule R292). -/
def Reason.kinds : Reason → List Kind
  | .transport => [.transport]
  | .noAccess | .unexpectedStore | .storeRange | .storeMisaligned => [.desync]
  | .fetchMismatch | .restartExhausted => [.desync, .unexpectedReturn]
  | .secondReturn => [.unexpectedReturn]
  | .finalAddr | .preReturnPad | .postReturnPad => [.desync]
  | .batchNotPending | .batchDirStoreExpected | .batchDirFetchExpected | .batchStoreAddr | .batchFetchAddr => [.desync]
  | .batchReturn => [.unexpectedReturn]
  | .queueError | .alloc => [.resource]
  | .badOperand | .illegalCommand => [.illegal]

/-- The kind of a fetch-address mismatch at `a` (rule R191). -/
def mismatchAt (cfg : Config) (a : Word) : Mismatch := if a = cfg.textBase then .unexpectedReturn else .desync

/-- The kind a mismatch is raised with (rules R173, R191). -/
def Mismatch.kind : Mismatch → Kind
  | .desync => .desync
  | .unexpectedReturn => .unexpectedReturn

/-- The kind of the restart-exhausted error, `E.last_mismatch` (rule R173). A restart is due only after a mismatch has been
recorded; NONE reads as DESYNC (log entry 30). -/
def exhaustedKind : Option Mismatch → Kind
  | some m => m.kind
  | none => .desync

/-- A protocol error: the kinds after which an EXEC runs the recovery (rules R293, R300). -/
def Kind.recovers : Kind → Bool
  | .desync | .unexpectedReturn => true
  | .ok | .transport | .resource | .illegal => false

/-- `SCRATCH_SET ⊆ [first, last]` (rule R263). -/
def coversScratch (first last : RegNum) : Bool := scratchSet.all fun r => inRange first last (scratchNumber r)

/-- `|{k : Q[k].addr ≠ 0}|` (rule R114). -/
def countStores (entries : List Entry) : Nat := entries.countP fun e => e.addr != 0#32

/-- `RESTART_WINDOW` admits a restart when `code_count` entries have been fed (P10, rule R179). -/
def inRestartWindow (cfg : Config) (codeCount : Nat) : Bool :=
  match cfg.restartWindow with
  | none => true
  | some n => decide (codeCount < n)

/-- The queue has reached QUEUE_CAPACITY (P16, rule R113). -/
def atCapacity (cfg : Config) (length : Nat) : Bool :=
  match cfg.queueCapacity with
  | none => false
  | some n => length == n

/-- The larger of two addresses, as unsigned numbers (rules R11, R33). -/
def maxAddr (a b : Word) : Word := if a.toNat ≤ b.toNat then b else a

end Sys2Proof.Machine
end

