-- ==== Sys2Proof/Machine/Ops.lean ====
section
/-! DEFINITION. The named operations every meaning is built from: updates of one part of the state, memory, the draws of the
free inputs, the primitives of the scan port (rules R140 to R150), APPEND (rule R113), the start and the end of a run of the
synchronous executor, and the error exit (rule R298), which is the block's one way of taking an exception. -/

namespace Sys2Proof.Machine

/-! ## Updates of one part of the state -/

def State.withSes (s : State) (x : Session) : State := { s with ses := x }
def State.withQue (s : State) (x : Queue) : State := { s with que := x }
def State.withExe (s : State) (x : Executor) : State := { s with exe := x }
def State.withOut (s : State) (x : Memory) : State := { s with out := x }
def State.withLog (s : State) (x : List Record) : State := { s with log := x }
def State.withPort (s : State) (x : Port) : State := { s with port := x }
def State.withRun (s : State) (x : Run) : State := { s with run := x }
def State.withInput (s : State) (x : Input) : State := { s with input := x }
def State.withInbox (s : State) (x : List Msg) : State := { s with inbox := x }
def State.withTarget (s : State) (x : Target) : State := { s with target := x }

/-- `E.phase <- p`. -/
def State.withPhase (s : State) (p : Phase) : State := s.withExe { s.exe with phase := p }
/-- `S.status <- k`. -/
def State.withStatus (s : State) (k : Kind) : State := s.withSes { s.ses with status := k }
/-- The running command goes on to wait for another scan answer. -/
def State.waitAt (s : State) (p : Point) : State := s.withRun { s.run with point := p }

/-! ## Memory -/

/-- `MemRead(OUT, i, 4)` (rule R12). -/
def Memory.read (m : Memory) (i : Nat) : Word := (m.lookup i).getD Memory.unlisted

/-- How a word is listed: not at all where it is what an unlisted index holds. -/
def Memory.cell (i : Nat) (v : Word) : Memory := if v = Memory.unlisted then [] else [(i, v)]

/-- `MemWrite(OUT, i, 4, v)` (rule R12), keeping the canonical form. -/
def Memory.write : Memory → Nat → Word → Memory
  | [], i, v => Memory.cell i v
  | (j, w) :: rest, i, v =>
    if i < j then Memory.cell i v ++ (j, w) :: rest
    else if i = j then Memory.cell i v ++ rest
    else (j, w) :: Memory.write rest i v

/-- Write words in order, the later one winning on a repeated index (rule R229). -/
def Memory.writeAll (m : Memory) (stage : List (Nat × Word)) : Memory := stage.foldl (fun m c => m.write c.1 c.2) m

/-! ## Draws of the free inputs -/

/-- The next captured word (rule R142). -/
def drawWord (s : State) : Word × State :=
  match s.input.words with
  | w :: ws => (w, s.withInput { s.input with words := ws })
  | [] => (Config.freeWord s.input.drawn, s.withInput { s.input with drawn := s.input.drawn + 1 })

/-- The next captured record of a batched scan (rules R87, R142). -/
def drawRecord (s : State) : Record × State :=
  match s.input.records with
  | r :: rs => (r, s.withInput { s.input with records := rs })
  | [] =>
    let d := s.input.drawn
    ({ ctrl := Config.freeWord d, data := Config.freeWord (d + 1), addr := Config.freeWord (d + 2) },
      s.withInput { s.input with drawn := d + 3 })

/-- The next transport draw: true is a failure (rule R141). -/
def drawFail (s : State) : Bool × State :=
  match s.input.fails with
  | f :: fs => (f, s.withInput { s.input with fails := fs })
  | [] => (Config.freeBit s.input.drawn, s.withInput { s.input with drawn := s.input.drawn + 1 })

/-- The next alloc_fail draw (rule R113). -/
def drawAlloc (s : State) : Bool × State :=
  match s.input.allocs with
  | f :: fs => (f, s.withInput { s.input with allocs := fs })
  | [] => (Config.freeBit s.input.drawn, s.withInput { s.input with drawn := s.input.drawn + 1 })

/-! ## The scan port -/

/-- Record a primitive as issued. -/
def emit (op : PortOp) (s : State) : State := s.withPort { s.port with trace := op :: s.port.trace }

/-- `SetIR(code)`: a pure selection (rules R140, R151). -/
def setIR (code : Nat) (s : State) : State :=
  s.withPort { s.port with ir := code, trace := .setIR code :: s.port.trace }

/-- `Pace(n)` (rules R140, R149). -/
def pace (clocks : Nat) (s : State) : State := emit (.pace clocks) s

/-- `Scan32Q(v)` whose captured value is discarded (rules R146, R148). -/
def scan32Q (v : Word) (s : State) : State :=
  s.withPort { s.port with queued := s.port.queued ++ [.discard], trace := .scan32Q v :: s.port.trace }

/-- `Scan32Q(v) -> h` (rule R140): the state after it; the handle is the `nextHandle` before it. -/
def scan32QKeep (v : Word) (s : State) : State :=
  s.withPort
    { s.port with
      queued := s.port.queued ++ [.keep s.port.nextHandle]
      nextHandle := s.port.nextHandle + 1
      trace := .scan32Q v :: s.port.trace }

/-- `Scan96Q(c, d, a) -> h` (rule R140): the state after it; the handle is the `nextHandle` before it. -/
def scan96Q (r : Record) (s : State) : State :=
  s.withPort
    { s.port with
      queued := s.port.queued ++ [.keep96 s.port.nextHandle]
      nextHandle := s.port.nextHandle + 1
      trace := .scan96Q r :: s.port.trace }

/-- Run queued scans in order; each that keeps its value captures one (rules R140, R142). -/
def runScans : List QueuedScan → State → State
  | [], s => s
  | .discard :: qs, s => runScans qs s
  | .keep h :: qs, s =>
    let (w, s) := drawWord s
    runScans qs (s.withPort { s.port with captured := (h, w) :: s.port.captured })
  | .keep96 h :: qs, s =>
    let (r, s) := drawRecord s
    runScans qs (s.withPort { s.port with captured96 := (h, r) :: s.port.captured96 })

/-- What a primitive that waits for the port answers: a transport failure, or a value. -/
inductive Answer (α : Type) where
  | failed (s : State)
  | got (a : α) (s : State)

/-- The port runs what is queued, or fails (rules R140, R141). The queue is empty afterwards either way (log entry 27). -/
def runPort (s : State) : Answer Unit :=
  let (failed, s) := drawFail s
  let queued := s.port.queued
  let s := s.withPort { s.port with queued := [] }
  if failed then .failed s else .got () (runScans queued s)

/-- `Scan32(v) -> v'`: the scans queued before it run first (rule R140). -/
def scan32 (v : Word) (s : State) : Answer Word :=
  match runPort (emit (.scan32 v) s) with
  | .failed s => .failed s
  | .got _ s =>
    let (w, s) := drawWord s
    .got w s

/-- `ExecQueued()` (rules R72, R140). -/
def execQueued (s : State) : Answer Unit := runPort (emit .execQueued s)

/-- `Value(h)` of a 32-bit scan (rule R140). A scan that has not run has no defined value: a free one (log entry 28). -/
def capturedWord (s : State) (h : Nat) : Word := (s.port.captured.lookup h).getD (Config.unrunWord h 0)

/-- `Value(h)` of a 96-bit scan (rule R140). -/
def capturedRecord (s : State) (h : Nat) : Record :=
  (s.port.captured96.lookup h).getD
    { ctrl := Config.unrunWord h 0, data := Config.unrunWord h 1, addr := Config.unrunWord h 2 }

/-! ## Micro-operations that wait for nothing (rules R146 to R149) -/

/-- `FEED(w)` (rule R146). -/
def feed (w : Word) (s : State) : State :=
  scan32Q (encLane s.cfg s.ses.isa s.ses.endian w) (setIR s.cfg.ir.data s)

/-- `CAPTURE()` (rule R147): the state after it; the handle is the `nextHandle` before it. -/
def capture (s : State) : State := scan32QKeep 0#32 (setIR s.cfg.ir.data s)

/-- `FINISH()` (rule R148). -/
def finish (s : State) : State := scan32Q (finWord s.cfg) (setIR s.cfg.ir.control s)

/-- `SCAN96(d)` (rule R149): the state after it; the handle is the `nextHandle` before it. -/
def slotScan (d : Word) (s : State) : State :=
  scan96Q { ctrl := finWord s.cfg, data := d, addr := 0#32 } (pace s.cfg.pacingClocks s)

/-- The control scan of WAIT_PRACC (rule R143). The selection `SetIR(IR_CONTROL)` goes before the first poll only. -/
def scanControl (polls : Nat) (s : State) : Answer Word :=
  scan32 s.cfg.ctrlBase (if polls = 0 then setIR s.cfg.ir.control s else s)

/-- `READ_ADDR()` (rule R144). -/
def scanAddress (s : State) : Answer Word := scan32 0#32 (setIR s.cfg.ir.address s)

/-! ## APPEND (rule R113) -/

/-- `APPEND(instr, a)`: whether it succeeded, and the state after it. -/
def appendEntry (e : Entry) (s : State) : Bool × State :=
  let (allocFail, s) := drawAlloc s
  if atCapacity s.cfg s.que.entries.length || allocFail then (false, s.withQue { s.que with error := true })
  else
    (true,
      s.withQue
        { s.que with
          entries := s.que.entries ++ [e]
          storeCount := if e.addr ≠ 0#32 then s.que.storeCount + 1 else s.que.storeCount })

/-- APPEND one entry after another, up to the first that fails (rules R113, R115). -/
def appendAll : List Entry → State → Bool × State
  | [], s => (true, s)
  | e :: es, s =>
    match appendEntry e s with
    | (true, s) => appendAll es s
    | (false, s) => (false, s)

/-! ## Starting and ending a command -/

/-- A command ends with a result code: S.status is written and E.phase is IDLE (rules R26, R30, R266). -/
def endCommand (k : Kind) (s : State) : State := (s.withStatus k).withPhase .idle |>.withRun .reset

/-- The start of EXEC_SYNC on a program (rule R171): E is initialised, and the first cycle is to observe. -/
def startSync (ctx : Ctx) (prog : List Entry) (s : State) : State :=
  (s.withExe { Executor.reset with phase := .executing }).withRun
    { ctx := some ctx, prog := prog, point := .poll .cycle 0 }

/-- RUN_RECOVERY(first, last) up to its first observation (rule R263): a synchronous run of the recovery program, or
`ifEmpty` where there is nothing to restore. -/
def startRecovery (ctx : Ctx) (first last : RegNum) (ifEmpty : State → State) (s : State) : State :=
  match recoveryProgram s.ses.isa s.ses.snap first last with
  | [] => ifEmpty s
  | prog => startSync ctx prog s

/-! ## The error exit -/

/-- `on_batch_failure` (rule R231): it changes the mode and no other field. -/
def onBatchFailure (x : Session) : Session := { x with mode := .sync }

/-- The diagnostic record of a failure (rules R298, R309). -/
def diagnose (r : Reason) (s : State) : Diag :=
  { reason := some r
    phase := s.exe.phase
    codeCount := s.exe.codeCount
    storePending := s.exe.storePending
    restartCount := s.exe.restartCount
    ctrl := s.ses.lastCtrl
    addr := s.ses.lastAddr }

/-- What ERROR_EXIT does before any recovery: the diagnostic record, E.phase FAILED, LOG and E.pending emptied, and the
downgrade where the batched executor ran (rule R298). -/
def recordFailure (batched : Bool) (r : Reason) (s : State) : State :=
  let s := s.withSes { s.ses with diag := diagnose r s }
  let s := (s.withExe { s.exe with phase := .failed, pending := none }).withLog []
  if batched then s.withSes (onBatchFailure s.ses) else s

/-- `ERROR_EXIT(kind, reason)` (rule R298) of a command: of an executor's run in a context, or of any other command (none).
An EXEC that failed with a protocol error goes on with a run of the recovery program, and ends with its own kind after
it (rules R300, R301). -/
def errorExit (ctx : Option Ctx) (k : Kind) (r : Reason) (s : State) : State :=
  match ctx with
  | some .execSync =>
    let s := recordFailure false r s
    if k.recovers then startRecovery (.exitRecovery k) 0 31 (endCommand k) s else endCommand k s
  | some .execBatched =>
    let s := recordFailure true r s
    if k.recovers then startRecovery (.exitRecovery k) 0 31 (endCommand k) s else endCommand k s
  | some .feed | some (.recover _ _) | some (.exitRecovery _) | none => endCommand k (recordFailure false r s)

/-- A run of the recovery program has ended: S.scratch_suspect (rules R23, R263, R302). -/
def noteRecovery (ok : Bool) (first last : RegNum) (s : State) : State :=
  if ok then (if coversScratch first last then s.withSes { s.ses with scratchSuspect := false } else s)
  else s.withSes { s.ses with scratchSuspect := true }

/-- `raise Fail(kind, reason)` in a running command (rules R12, R290). In a run of the recovery program it ends that run
only: RECOVER then raises it as its own error, and an error exit keeps the error it already has (rules R263, R301). -/
def raise (k : Kind) (r : Reason) (s : State) : State :=
  match s.run.ctx with
  | some (.recover first last) => errorExit s.run.ctx k r (noteRecovery false first last s)
  | some (.exitRecovery k₀) => endCommand k₀ (noteRecovery false 0 31 s)
  | some .execSync | some .execBatched | some .feed | none => errorExit s.run.ctx k r s

/-- The run ends OK (rules R187, R230, R260, R263, R298). -/
def succeed (s : State) : State :=
  match s.run.ctx with
  | some (.recover first last) => endCommand .ok (noteRecovery true first last s)
  | some (.exitRecovery k₀) => endCommand k₀ (noteRecovery true 0 31 s)
  | some .execSync | some .execBatched | some .feed | none => endCommand .ok s

end Sys2Proof.Machine
end

