-- ==== Sys2Proof/Machine/QueueCmds.lean ====
section
/-! DEFINITION. The queue-building commands (rules R110 to R120) and the illegal records (rule R83). -/

namespace Sys2Proof.Machine

/-- Q_INIT (rule R110). -/
def execQInit (s : State) : Host.Outcome State Fault Refusal :=
  .next ((s.withQue { entries := [], storeCount := 0, error := false }).withStatus .ok)

/-- The end of a command that appends: OK, or R_ALLOC (rules R111, R113, R115). -/
def endAppend (appended : Bool × State) : State :=
  if appended.1 then appended.2.withStatus .ok else errorExit none .resource .alloc appended.2

/-- Q_ADD (rules R111 to R114). -/
def execQAdd (instr storeAddr : Word) (s : State) : Host.Outcome State Fault Refusal :=
  .next
    (if s.que.error then errorExit none .resource .queueError s
    else if storeAddr ≠ 0#32 ∧ validStoreAddr s.cfg storeAddr = false then
      errorExit none .illegal .badOperand (s.withQue { s.que with error := true })
    else endAppend (appendEntry { instr := instr, addr := storeAddr } s))

/-- Q_ADD_LI (rules R115 to R118). -/
def execQAddLi (reg : RegNum) (optimize : Bool) (value : Word) (s : State) : Host.Outcome State Fault Refusal :=
  .next
    (if s.que.error then errorExit none .resource .queueError s
    else
      endAppend (appendAll ((liWords s.ses.isa reg optimize value).map fun w => { instr := w, addr := 0#32 }) s))

/-- An illegal command record (rule R83). -/
def illegalCommand (s : State) : State := errorExit none .illegal .illegalCommand s

/-- RESERVED_CMD_9 (rule R83). -/
def execReservedCmd9 (_ : BitVec 28) (s : State) : Host.Outcome State Fault Refusal := .next (illegalCommand s)

/-- RESERVED_CMD_A_B (rule R83). -/
def execReservedCmdAB (_ : BitVec 28) (_ : BitVec 1) (s : State) : Host.Outcome State Fault Refusal :=
  .next (illegalCommand s)

/-- RESERVED_CMD_C_F (rule R83). -/
def execReservedCmdCF (_ : BitVec 28) (_ : BitVec 2) (s : State) : Host.Outcome State Fault Refusal :=
  .next (illegalCommand s)

end Sys2Proof.Machine
end

