-- ==== Sys2Proof/Machine/BatchExec.lean ====
section
/-! DEFINITION. The batched executor (rules R220 to R234): the scan plan and its scans, which wait for nothing, and the replay
and commit once the one ExecQueued has been answered. -/

namespace Sys2Proof.Machine

/-- The slots that entry `k` of a program brings (rule R222). -/
def slotsAt (cfg : Config) (prog : List Entry) (k : Nat) : List Slot :=
  { isStore := false, k := k } ::
    match cfg.storeScanLag with
    | .zero => if (entryAt prog k).addr ≠ 0#32 then [{ isStore := true, k := k }] else []
    | .one => if 1 ≤ k ∧ (entryAt prog (k - 1)).addr ≠ 0#32 then [{ isStore := true, k := k - 1 }] else []

/-- BUILD_SLOTS (rule R222). -/
def buildSlots (cfg : Config) (prog : List Entry) : List Slot := (List.range prog.length).flatMap (slotsAt cfg prog)

/-- The data word a slot's scan shifts in (rules R221, R223). -/
def slotData (s : State) (slot : Slot) : Word :=
  if slot.isStore then 0#32 else encLane s.cfg s.ses.isa s.ses.endian (entryAt s.run.prog slot.k).instr

/-- Step B1: queue the scan of every slot; the plan pairs each slot with its scan's handle (rules R221, R223). -/
def issueSlots : List Slot → State → List (Slot × Nat) × State
  | [], s => ([], s)
  | slot :: slots, s =>
    let h := s.port.nextHandle
    let (plan, s') := issueSlots slots (slotScan (slotData s slot) s)
    ((slot, h) :: plan, s')

/-- The start of EXEC_BATCHED (rule R221): E is initialised, every scan is queued, and the one ExecQueued is to run. -/
def startBatched (s : State) : State :=
  let s := (s.withExe { Executor.reset with phase := .executing }).withRun
    { ctx := some .execBatched, prog := s.que.entries, point := .idle }
  let (plan, s) := issueSlots (buildSlots s.cfg s.run.prog) (setIR s.cfg.ir.all s)
  s.waitAt (.batch plan)

/-- The check of one record against its slot (rules R225, R227, R228): the failure it raises, or none. -/
def checkSlot (cfg : Config) (prog : List Entry) (slot : Slot) (r : Record) : Option (Kind × Reason) :=
  if r.ctrl.getLsbD cfg.praccBit = false then some (.desync, .batchNotPending)
  else if slot.isStore then
    if r.ctrl.getLsbD cfg.prnwBit = false then some (.desync, .batchDirStoreExpected)
    else if r.addr ≠ (entryAt prog slot.k).addr then some (.desync, .batchStoreAddr)
    else none
  else if r.ctrl.getLsbD cfg.prnwBit then some (.desync, .batchDirFetchExpected)
  else if r.addr ≠ textAddr cfg slot.k then
    if r.addr = cfg.textBase then some (.unexpectedReturn, .batchReturn) else some (.desync, .batchFetchAddr)
  else none

/-- Step B3 up to the first record that fails (rule R226): the failure, if any, the staged words, and the state. -/
def replay : List (Slot × Record) → List (Nat × Word) → State → Option (Kind × Reason) × List (Nat × Word) × State
  | [], stage, s => (none, stage, s)
  | (slot, r) :: rest, stage, s =>
    let s := s.withSes { s.ses with lastCtrl := r.ctrl, lastAddr := r.addr }
    match checkSlot s.cfg s.run.prog slot r with
    | some failure => (some failure, stage, s)
    | none =>
      if slot.isStore then replay rest (stage ++ [(outIndex s.cfg r.addr, r.data)]) s
      else replay rest stage (s.withExe { s.exe with codeCount := slot.k + 1 })

/-- Steps B2 to B4 once ExecQueued has run: LOG is read, replayed, and its stores committed only if every record passed
(rules R224, R226, R229, R230). -/
def batchRan (plan : List (Slot × Nat)) (s : State) : State :=
  let log := plan.map fun p => (p.1, capturedRecord s p.2)
  let s := s.withLog (log.map Prod.snd)
  match replay log [] s with
  | (some (k, r), _, s) => raise k r s
  | (none, stage, s) => succeed (((s.withOut (s.out.writeAll stage)).withLog []).withPhase .passed)

end Sys2Proof.Machine
end

