-- ==== Sys2Proof/Machine/SyncExec.lean ====
section
/-! DEFINITION. The synchronous executor (rules R171 to R191) with FLUSH (rule R152) and DRAIN (rule R186), cut at its scan
answers: each function below is the block's reaction to one answer, up to the next scan it waits for (rule R6). -/

namespace Sys2Proof.Machine

/-- RESET_ATTEMPT (rule R177). -/
def resetAttempt (s : State) : State :=
  s.withExe { s.exe with codeCount := 0, storePending := 0, maxStoreAddr := 0#32, pass := false, phase := .executing }

/-- The end of FLUSH and of step S0: the restart is counted and a new attempt observes (rule R173). -/
def endFlush (s : State) : State :=
  (resetAttempt (s.withExe { s.exe with restartCount := s.exe.restartCount + 1 })).waitAt (.poll .cycle 0)

/-- The extra loop of FLUSH with `j` rounds done (rule R152). -/
def flushExtra (j : Nat) (s : State) : State :=
  if j < s.cfg.flushExtraMax then s.waitAt (.poll (.extra j) 0) else endFlush s

/-- FLUSH from FLUSH_SEQ[i] on (rule R152). -/
def flushFrom (i : Nat) (s : State) : State :=
  if i < s.cfg.flushSeq.length then s.waitAt (.poll (.flush i) 0) else flushExtra 0 s

/-- The top of the loop: step S0 where a restart is due (rule R173), else on to the observation of step S1. -/
def loopTop (s : State) : State :=
  if s.exe.phase = .restarting then
    if s.cfg.restartLimit ≤ s.exe.restartCount then
      raise (exhaustedKind s.exe.lastMismatch) .restartExhausted s
    else flushFrom 0 s
  else s.waitAt (.poll .cycle 0)

/-- The deferred store read, where one is pending (step S2 and DRAIN; rules R174, R186). -/
def resolvePending (s : State) : State :=
  match s.exe.pending with
  | none => s
  | some d =>
    (s.withOut (s.out.write (outIndex s.cfg d.addr) (capturedWord s d.handle))).withExe { s.exe with pending := none }

/-- Step S4: the exchange is finished, and the run succeeds if the last pending store came after the pass (rule R185). -/
def finishExchange (s : State) : State :=
  let s := finish s
  if s.exe.pass && s.exe.storePending == 0 then s.waitAt .drain else loopTop s

/-- Step S3s: a store cycle at `a` (rule R176). -/
def storeCycle (a : Word) (s : State) : State :=
  if s.exe.storePending = 0 then raise .desync .unexpectedStore s
  else if a.toNat < s.cfg.paramOutBase.toNat ∨ s.exe.maxStoreAddr.toNat < a.toNat then raise .desync .storeRange s
  else if aligned a = false then raise .desync .storeMisaligned s
  else
    let h := s.port.nextHandle
    let s := capture s
    finishExchange
      (s.withExe { s.exe with pending := some { addr := a, handle := h }, storePending := s.exe.storePending - 1 })

/-- A fetch mismatch that the resync detector takes (step S3r, rule R178): it has this form, and no restart or resync has
been spent in this EXEC. -/
def resyncs (a : Word) (s : State) : Bool :=
  s.exe.codeCount == 1 && a == s.cfg.textBase && s.exe.restartCount == 0 && !s.exe.resyncUsed

/-- The resync (step S3r, rule R178): counters reset, no feed, no finish. -/
def resync (s : State) : State :=
  let count := if s.cfg.resyncConsumesBudget then s.exe.restartCount + 1 else s.exe.restartCount
  loopTop (resetAttempt (s.withExe { s.exe with resyncUsed := true, restartCount := count }))

/-- Step S3e on a fetch at the wrong address: resync, restart, or failure (rules R178, R179). -/
def fetchMismatch (a : Word) (s : State) : State :=
  if resyncs a s then resync s
  else if inRestartWindow s.cfg s.exe.codeCount then
    loopTop (s.withExe { s.exe with lastMismatch := some (mismatchAt s.cfg a), phase := .restarting })
  else raise (mismatchAt s.cfg a).kind .fetchMismatch s

/-- Step S3e on a fetch at the expected address: the bookkeeping of entry `code_count` and its feed (rule R180). -/
def feedEntry (s : State) : State :=
  let e := entryAt s.run.prog s.exe.codeCount
  let stores := e.addr != 0#32
  let s := s.withExe
    { s.exe with
      maxStoreAddr := if stores then maxAddr s.exe.maxStoreAddr e.addr else s.exe.maxStoreAddr
      storePending := if stores then s.exe.storePending + 1 else s.exe.storePending }
  let s := feed e.instr s
  let next := s.exe.codeCount + 1
  finishExchange
    (s.withExe { s.exe with codeCount := next, phase := if next = s.run.prog.length then .finalCheck else s.exe.phase })

/-- Step S3e: a fetch at `a` while executing (rules R178 to R180). -/
def fetchExecuting (a : Word) (s : State) : State :=
  if a = textAddr s.cfg s.exe.codeCount then feedEntry s else fetchMismatch a s

/-- The padding limits and the padding feed of the final check (rules R183, R184). -/
def padFetch (s : State) : State :=
  if s.exe.pass = false ∧ s.exe.codeCount - s.run.prog.length > s.cfg.preReturnPadLimit then
    raise .desync .preReturnPad s
  else if s.exe.pass = true ∧ s.exe.codeCount > s.cfg.postReturnPadLimit then raise .desync .postReturnPad s
  else
    let s := feed (nopFor s.ses.isa) s
    finishExchange (s.withExe { s.exe with codeCount := s.exe.codeCount + 1 })

/-- Step S3f: a fetch at `a` in the final check (rules R181 to R184). -/
def fetchFinal (a : Word) (s : State) : State :=
  if a = s.cfg.textBase then
    if s.exe.pass then raise .unexpectedReturn .secondReturn s
    else if s.exe.storePending = 0 then s.waitAt .drain
    else padFetch (s.withExe { s.exe with pass := true, codeCount := 0 })
  else if a ≠ textAddr s.cfg s.exe.codeCount then raise .desync .finalAddr s
  else padFetch s

/-- The end of OBSERVE (rule R145). -/
def noteObserved (c a : Word) (s : State) : State := s.withSes { s.ses with lastCtrl := c, lastAddr := a }

/-- The rest of a cycle once the access is observed: steps S2 to S4 (rules R171, R175). -/
def cycle (isStore : Bool) (c a : Word) (s : State) : State :=
  let s := resolvePending (noteObserved c a s)
  if isStore then storeCycle a s
  else if s.exe.phase = .executing then fetchExecuting a s
  else fetchFinal a s

/-- A round of FLUSH's extra loop once its access is observed (rule R152). -/
def extraRound (j : Nat) (c a : Word) (s : State) : State :=
  let s := noteObserved c a s
  if a = s.cfg.textBase then endFlush s else flushExtra (j + 1) (finish (feed (nopFor s.ses.isa) s))

/-- DRAIN has run its ExecQueued: the last pending read is resolved and the run ends OK (rules R186, R187). -/
def drained (s : State) : State := succeed ((resolvePending s).withPhase .passed)

end Sys2Proof.Machine
end

