-- ==== Sys2Proof/Machine/Control.lean ====
section
/-! DEFINITION. The scan-dispatch: what the block does with the answer of the scan it waits for (rules R6, R143, R145, R152,
R171, R221, R260), the meanings of the three control-word rows (rule R85), and a command's run to its end (rules R8, R266). -/

namespace Sys2Proof.Machine

/-- FEED_UNCHECKED from Q[k] on: the wait for the next access, or the ExecQueued at the end (rule R260). -/
def feedFrom (k : Nat) (s : State) : State :=
  if k < s.run.prog.length then s.waitAt (.poll (.feed k) 0) else s.waitAt .feedEnd

/-- A control word without a pending access was captured (rules R85, R143): one more poll, up to POLL_LIMIT. With no
control scan outstanding nothing is captured (log entry 11). -/
def onNotPending (s : State) : State :=
  match s.run.point with
  | .poll w polls =>
    if s.cfg.pollLimit ≤ polls + 1 then raise .desync .noAccess s else s.waitAt (.poll w (polls + 1))
  | .idle | .addr _ _ _ | .drain | .feedEnd | .batch _ => s

/-- A control word with a pending access was captured (rules R85, R143): a cycle and a round of FLUSH's extra loop go on to
read its address; FLUSH and FEED_UNCHECKED feed it, whatever its direction and address (rules R152, R260). -/
def onAccess (isStore : Bool) (c : Word) (s : State) : State :=
  match s.run.point with
  | .poll .cycle _ => s.waitAt (.addr .cycle isStore c)
  | .poll (.extra j) _ => s.waitAt (.addr (.extra j) isStore c)
  | .poll (.flush i) _ => flushFrom (i + 1) (finish (feed (flushWord s.cfg s.ses.isa i) s))
  | .poll (.feed k) _ => feedFrom (k + 1) (finish (feed (entryAt s.run.prog k).instr s))
  | .idle | .addr _ _ _ | .drain | .feedEnd | .batch _ => s

/-- The reaction to a captured control word (rule R85). -/
def onControl (c : Word) (s : State) : State :=
  match classify s.cfg.praccBit s.cfg.prnwBit c with
  | .notPending => onNotPending s
  | .fetch => onAccess false c s
  | .store => onAccess true c s

/-- The reaction to a captured address (rules R145, R152, R171). FLUSH_SEQ and FEED_UNCHECKED read no address. -/
def onAddress (w : Wait) (isStore : Bool) (c a : Word) (s : State) : State :=
  match w with
  | .cycle => cycle isStore c a s
  | .extra j => extraRound j c a s
  | .flush _ | .feed _ => s

/-- One micro-step of the running command: the scan it waits for, and its reaction to the answer (rules R6, R141). With no
command running nothing changes (rule R304). -/
def tick (s : State) : State :=
  match s.run.point with
  | .idle => s
  | .poll _ polls =>
    match scanControl polls s with
    | .failed s => raise .transport .transport s
    | .got c s => onControl c s
  | .addr w isStore c =>
    match scanAddress s with
    | .failed s => raise .transport .transport s
    | .got a s => onAddress w isStore c a s
  | .drain =>
    match execQueued s with
    | .failed s => raise .transport .transport s
    | .got _ s => drained s
  | .feedEnd =>
    match execQueued s with
    | .failed s => raise .transport .transport s
    | .got _ s => succeed s
  | .batch plan =>
    match execQueued s with
    | .failed s => raise .transport .transport s
    | .got _ s => batchRan plan s

/-- A bound on the micro-steps of EXEC_SYNC on a program of `n` entries (rules R183, R190, R305; log entry 8): the attempts,
times the accesses of one attempt with its FLUSH, times the scans of one access, and the DRAIN. -/
def syncBound (cfg : Config) (n : Nat) : Nat :=
  (cfg.restartLimit + 3)
      * (2 * n + cfg.preReturnPadLimit + cfg.postReturnPadLimit + cfg.flushSeq.length + cfg.flushExtraMax + 8)
      * (cfg.pollLimit + 2)
    + 2

/-- A bound on the micro-steps of a command on a program of `n` entries and of the recovery after it, whose program has at
most 10 entries (rule R264). -/
def commandBound (cfg : Config) (n : Nat) : Nat := syncBound cfg n + syncBound cfg 10 + 2

/-- Micro-steps until no command is running, at most `fuel` of them. -/
def runTicks : Nat → State → State
  | 0, s => s
  | fuel + 1, s => if s.run.point = .idle then s else runTicks fuel (tick s)

/-- A command runs to its end (rules R8, R266). -/
def runToEnd (s : State) : State :=
  if s.run.point = .idle then s else runTicks (commandBound s.cfg s.run.prog.length) s

/-! ## The control-word rows -/

/-- CTRL_NOT_PENDING (rules R85, R143). -/
def execCtrlNotPending (_ : Word) (s : State) : Host.Outcome State Fault Refusal := .next (onNotPending s)

/-- CTRL_FETCH (rules R85, R143, R175). -/
def execCtrlFetch (c : Word) (s : State) : Host.Outcome State Fault Refusal := .next (onAccess false c s)

/-- CTRL_STORE (rules R85, R143, R175). -/
def execCtrlStore (c : Word) (s : State) : Host.Outcome State Fault Refusal := .next (onAccess true c s)

end Sys2Proof.Machine
end

