-- ==== Sys2Proof/Machine/SessionCmds.lean ====
section
/-! DEFINITION. EXEC (rule R170) and the session commands (rules R260 to R265). -/

namespace Sys2Proof.Machine

/-- EXEC up to its first scan answer (rule R170): an error or an empty queue ends it without a scan; else the executor of
the session's mode starts. A queue in error ends with no executor run, so without a downgrade (log entry 24). -/
def startExec (s : State) : State :=
  if s.que.error then errorExit none .resource .queueError s
  else if s.que.entries = [] then s.withStatus .ok
  else
    match s.ses.mode with
    | .sync => startSync .execSync s.que.entries s
    | .batched => startBatched s

/-- EXEC (rule R170). -/
def execExec (s : State) : Host.Outcome State Fault Refusal := .next (runToEnd (startExec s))

/-- FEED_UNCHECKED up to its first scan answer (rule R260). -/
def startFeed (s : State) : State :=
  if s.que.error then errorExit none .resource .queueError s
  else if s.que.entries = [] then s.withStatus .ok
  else
    feedFrom 0
      ((s.withPhase .executing).withRun { ctx := some .feed, prog := s.que.entries, point := .idle })

/-- FEED_UNCHECKED (rule R260). -/
def execFeedUnchecked (s : State) : Host.Outcome State Fault Refusal := .next (runToEnd (startFeed s))

/-- SET_MODE (rule R261). -/
def execSetMode (mode : Mode) (s : State) : Host.Outcome State Fault Refusal :=
  .next ((s.withSes { s.ses with mode := mode }).withStatus .ok)

/-- SET_SNAPSHOT (rule R262). -/
def execSetSnapshot (reg : RegNum) (value : Word) (s : State) : Host.Outcome State Fault Refusal :=
  .next
    (match scratchOf reg with
    | none => errorExit none .illegal .badOperand s
    | some r =>
      (s.withSes { s.ses with snap := snapSet s.ses.snap r { value := value, valid := true } }).withStatus .ok)

/-- RECOVER up to its first scan answer (rule R263). -/
def startRecover (first last : RegNum) (s : State) : State :=
  if last < first then errorExit none .illegal .badOperand s
  else startRecovery (.recover first last) first last (fun s => s.withStatus .ok) s

/-- RECOVER (rule R263). -/
def execRecover (first last : RegNum) (s : State) : Host.Outcome State Fault Refusal :=
  .next (runToEnd (startRecover first last s))

/-- SET_ISA (rule R265). -/
def execSetIsa (isa : Isa) (endian : Endian) (s : State) : Host.Outcome State Fault Refusal :=
  .next ((s.withSes { s.ses with isa := isa, endian := endian }).withStatus .ok)

end Sys2Proof.Machine
end

