-- ==== Sys2Proof/Machine/TargetWords.lean ====
section
/-! DEFINITION. The effects on the target that rules R89 to R93 state of the words the block emits, on the target view (log
entries 12 and 13). Register $0 reads 0 and discards writes (rules R115, R117; K16). -/

namespace Sys2Proof.Machine

/-- Read a target general register; $0 reads 0 (rule R117). -/
def readGpr (t : Target) (r : RegNum) : Word := if r = 0 then 0#32 else t.gpr.get ⟨r.toNat, r.isLt⟩

/-- Write a target general register; a write to $0 has no effect (rule R115). -/
def writeGpr (t : Target) (r : RegNum) (v : Word) : Target :=
  if r = 0 then t else { t with gpr := t.gpr.set r.toNat v r.isLt }

/-- The target goes on to the next word in its program order. -/
def advance (t : Target) : Target := { t with pc := t.npc, npc := t.npc + 4#32 }

/-- The target branches to `dest` after the delay slot (rules R92, R93). -/
def branchTo (t : Target) (dest : Word) : Target := { t with pc := t.npc, npc := dest }

/-- NOP (rule R89). -/
def execNop (s : State) : Host.Outcome State Fault Refusal := .next (s.withTarget (advance s.target))

/-- LUI: rt ← imm ‖ 0x0000 (rule R90). -/
def execLui (rt : RegNum) (imm : BitVec 16) (s : State) : Host.Outcome State Fault Refusal :=
  .next (s.withTarget (advance (writeGpr s.target rt (imm ++ 0#16))))

/-- ORI: rt ← rs | zext_32(imm) (rule R91). -/
def execOri (rt rs : RegNum) (imm : BitVec 16) (s : State) : Host.Outcome State Fault Refusal :=
  .next (s.withTarget (advance (writeGpr s.target rt (readGpr s.target rs ||| imm.zeroExtend 32))))

/-- Where J goes: (PC+4)[31:28] ‖ target[27:2] ‖ 00 (rule R92). -/
def jumpTarget (pc : Word) (index : BitVec 26) : Word := (pc + 4#32).extractLsb' 28 4 ++ index ++ 0#2

/-- Where B goes: the address of the branch + 4 + sext_32(off) × 4 (rule R93). -/
def branchTarget (pc : Word) (off : BitVec 16) : Word := pc + 4#32 + off.signExtend 32 * 4#32

/-- J (rule R92). -/
def execJ (index : BitVec 26) (s : State) : Host.Outcome State Fault Refusal :=
  .next (s.withTarget (branchTo s.target (jumpTarget s.target.pc index)))

/-- B (rule R93). -/
def execB (off : BitVec 16) (s : State) : Host.Outcome State Fault Refusal :=
  .next (s.withTarget (branchTo s.target (branchTarget s.target.pc off)))

end Sys2Proof.Machine
end

