-- ==== Sys2Proof/Machine/Dispatch.lean ====
section
/-! DEFINITION. One arm per row of the opcode table: the meaning of each instruction. -/

namespace Sys2Proof.Machine

def exec (i : Instr) (s : State) : Host.Outcome State Fault Refusal :=
  match i with
  -- host command records
  | .qInit => Sys2Proof.Machine.execQInit s
  | .qAdd instr storeAddr => Sys2Proof.Machine.execQAdd instr storeAddr s
  | .qAddLi reg optimize value => Sys2Proof.Machine.execQAddLi reg optimize value s
  | .exec => Sys2Proof.Machine.execExec s
  | .feedUnchecked => Sys2Proof.Machine.execFeedUnchecked s
  | .setMode mode => Sys2Proof.Machine.execSetMode mode s
  | .setSnapshot reg value => Sys2Proof.Machine.execSetSnapshot reg value s
  | .recover first last => Sys2Proof.Machine.execRecover first last s
  | .setIsa isa endian => Sys2Proof.Machine.execSetIsa isa endian s
  | .reservedCmd9 rest => Sys2Proof.Machine.execReservedCmd9 rest s
  | .reservedCmdAB rest low => Sys2Proof.Machine.execReservedCmdAB rest low s
  | .reservedCmdCF rest low => Sys2Proof.Machine.execReservedCmdCF rest low s
  -- captured control words
  | .ctrlNotPending c => Sys2Proof.Machine.execCtrlNotPending c s
  | .ctrlFetch c => Sys2Proof.Machine.execCtrlFetch c s
  | .ctrlStore c => Sys2Proof.Machine.execCtrlStore c s
  -- words the target executes
  | .nop => Sys2Proof.Machine.execNop s
  | .lui rt imm => Sys2Proof.Machine.execLui rt imm s
  | .ori rt rs imm => Sys2Proof.Machine.execOri rt rs imm s
  | .j index => Sys2Proof.Machine.execJ index s
  | .b off => Sys2Proof.Machine.execB off s

end Sys2Proof.Machine
end

