-- ==== Sys2Proof/Machine/Fetch.lean ====
section
/-! DEFINITION. What `step` fetches on each surface (rules R6, R80, R85): the next command record of the host, the control word
a scan captures, or the word the target executes next; and how a table word is put where `step` fetches it next. -/

namespace Sys2Proof.Machine

/-- A command record is accepted (rules R80 to R83): the command it decodes to runs to its end; an illegal record takes the
error exit (log entry 29). -/
def stepCommand (w0 w1 w2 : Word) (s : State) : Host.Outcome State Fault Refusal :=
  match decodeCommand w0 w1 w2 with
  | .ok i => exec i s
  | .error _ => .next (illegalCommand s)

/-- The target executes a word (rules R89 to R94). -/
def stepTarget (w : Word) (s : State) : Host.Outcome State Fault Refusal :=
  match s.ses.isa with
  | .microMips => .refused (.targetMicroMipsOpen w)
  | .mips32 =>
    match decodeWord w with
    | .ok i => exec i s
    | .error _ => .refused (.targetWordUnspecified w)

/-- One micro-step of a command that is running (rule R6). A captured control word is decoded into its row of the opcode
table and executed (rule R85); every other answer is the block's alone. -/
def stepRunning (s : State) : Host.Outcome State Fault Refusal :=
  match s.run.point with
  | .poll _ polls =>
    match scanControl polls s with
    | .failed s => .next (raise .transport .transport s)
    | .got c s => exec (decodeControl s.cfg.praccBit s.cfg.prnwBit c) s
  | .idle | .addr _ _ _ | .drain | .feedEnd | .batch _ => .next (tick s)

/-- One step. A word for the target to execute is the target's move. A command record is accepted while no command runs
(rules R8, R266). Otherwise the running command takes its next micro-step; with none running nothing happens (rules R304,
R345). -/
def stepNext (s : State) : Host.Outcome State Fault Refusal :=
  match s.inbox with
  | .targetExec w :: rest => stepTarget w (s.withInbox rest)
  | .command w0 w1 w2 :: rest =>
    if s.run.point = .idle then stepCommand w0 w1 w2 (s.withInbox rest) else stepRunning s
  | [] => stepRunning s

/-- The state in which `step` fetches next the instruction of the opcode table whose bits are `w` (log entry 9): a command
record or a target word stands first in the inbox; a control word is the next answer of a running EXEC that observes. -/
def placeWord (s : State) (nbits w : Nat) : State :=
  let w0 := tableWord nbits w 0
  match tableSurface nbits w0 with
  | .command =>
    { s with
      inbox := .command w0 (tableWord nbits w 1) (tableWord nbits w 2) :: s.inbox
      exe := { s.exe with phase := .idle }
      run := .reset }
  | .word => { s with inbox := .targetExec w0 :: s.inbox, ses := { s.ses with isa := .mips32 } }
  | .control =>
    { s with
      inbox := []
      exe := { s.exe with phase := .executing }
      run := { ctx := some .execSync, prog := s.que.entries, point := .poll .cycle 0 }
      port := { s.port with queued := [] }
      input := { s.input with words := w0 :: s.input.words, fails := false :: s.input.fails } }

end Sys2Proof.Machine
end

