-- ==== Sys2Proof/Machine/Step.lean ====
section
/-! DEFINITION. The step of the machine and the place from which it fetches. -/

namespace Sys2Proof.Machine

/-- One step of the machine: the block's reaction to one command or to one scan answer (rule R6), or the target's execution
of one word (log entry 12). -/
def step (s : State) : Host.Outcome State Fault Refusal := stepNext s

/-- `s` with the table's instruction of bits `w` where `step` fetches its next instruction. -/
def State.withFetchWord (s : State) (nbits w : Nat) : State := placeWord s nbits w

end Sys2Proof.Machine
end

