-- ==== Sys2Proof/Machine/Asm.lean ====
section
/-! DEFINITION. The assembler syntax of the commands, one per line (rule R95), and the expansion of the pseudo-instruction q.li
into q.add commands (rule R96). Blanks and commas both separate tokens. -/

namespace Sys2Proof.Machine

/-! ## Tokens and numbers -/

/-- The tokens of a line: runs of characters other than blank and comma, from the last to the first, `current` being the
one in progress. -/
def tokensFrom : List Char → List Char → List (List Char) → List (List Char)
  | [], current, done => (if current = [] then done else current.reverse :: done).reverse
  | c :: cs, current, done =>
    if c = ' ' ∨ c = ',' then tokensFrom cs [] (if current = [] then done else current.reverse :: done)
    else tokensFrom cs (c :: current) done

/-- The tokens of a line. -/
def tokens (line : List Char) : List (List Char) := tokensFrom line [] []

/-- The value of a digit below 16. -/
def digit (c : Char) : Option Nat :=
  if '0'.toNat ≤ c.toNat ∧ c.toNat ≤ '9'.toNat then some (c.toNat - '0'.toNat)
  else if 'a'.toNat ≤ c.toNat ∧ c.toNat ≤ 'f'.toNat then some (c.toNat - 'a'.toNat + 10)
  else if 'A'.toNat ≤ c.toNat ∧ c.toNat ≤ 'F'.toNat then some (c.toNat - 'A'.toNat + 10)
  else none

/-- Digits of a base, most significant first, after a value `acc`. -/
def digits (base : Nat) : List Char → Nat → Option Nat
  | [], acc => some acc
  | c :: cs, acc =>
    match digit c with
    | some d => if d < base then digits base cs (base * acc + d) else none
    | none => none

/-- A number: hexadecimal with 0x, else decimal (rule R95). -/
def number : List Char → Option Nat
  | [] => none
  | '0' :: 'x' :: [] => none
  | '0' :: 'x' :: cs => digits 16 cs 0
  | cs => digits 10 cs 0

/-- A number that fits a field of `w` bits. -/
def numberIn (w : Nat) (t : List Char) : Option (BitVec w) :=
  match number t with
  | some n => if n < 2 ^ w then some (BitVec.ofNat w n) else none
  | none => none

/-- A register, `$` and its number (rule R95). -/
def register : List Char → Option RegNum
  | '$' :: cs => numberIn 5 cs
  | _ => none

/-- A branch offset: a number, with a minus sign for a branch backwards (rules R93, R96). -/
def offset : List Char → Option (BitVec 16)
  | '-' :: cs => (numberIn 16 cs).map fun v => -v
  | cs => numberIn 16 cs

/-! ## The words of q.add -/

/-- The instruction word of a q.add, and the tokens after it: a number, or a MIPS mnemonic whose encoding rules R89 to R93
give (rule R95). A mnemonic stands for the MIPS32 word of those rules whatever S.isa is when the command runs (DESIGN CHOICE,
log entry 37). -/
def instrWord : List (List Char) → Option (Word × List (List Char))
  | [] => none
  | t :: ts =>
    if t = "nop".toList then some (nopWord, ts)
    else if t = "lui".toList then
      match ts with
      | rt :: imm :: ts =>
        match register rt, numberIn 16 imm with
        | some rt, some imm => some (luiWord rt imm, ts)
        | _, _ => none
      | _ => none
    else if t = "ori".toList then
      match ts with
      | rt :: rs :: imm :: ts =>
        match register rt, register rs, numberIn 16 imm with
        | some rt, some rs, some imm => some (oriWord rt rs imm, ts)
        | _, _, _ => none
      | _ => none
    else if t = "j".toList then
      match ts with
      | dest :: ts => (numberIn 32 dest).map fun v => (jTo v, ts)
      | _ => none
    else if t = "b".toList then
      match ts with
      | off :: ts => (offset off).map fun v => (bWord v, ts)
      | _ => none
    else (numberIn 32 t).map fun v => (v, ts)

/-! ## Lines -/

/-- The command that a line stands for (rule R95): an omitted store_addr is 0, and q.li optimizes unless noopt is given. -/
def assembleTokens : List (List Char) → Option Instr
  | [] => none
  | t :: ts =>
    if t = "q.init".toList ∧ ts = [] then some .qInit
    else if t = "q.add".toList then
      match instrWord ts with
      | some (w, []) => some (.qAdd w 0#32)
      | some (w, [a]) => (numberIn 32 a).map fun a => .qAdd w a
      | _ => none
    else if t = "q.li".toList then
      match ts with
      | [r, v] =>
        match register r, numberIn 32 v with
        | some r, some v => some (.qAddLi r true v)
        | _, _ => none
      | [r, v, o] =>
        match register r, numberIn 32 v with
        | some r, some v => if o = "noopt".toList then some (.qAddLi r false v) else none
        | _, _ => none
      | _ => none
    else if t = "exec".toList ∧ ts = [] then some .exec
    else if t = "feed".toList ∧ ts = [] then some .feedUnchecked
    else if t = "mode".toList then
      if ts = ["sync".toList] then some (.setMode .sync)
      else if ts = ["batched".toList] then some (.setMode .batched)
      else none
    else if t = "snap".toList then
      match ts with
      | [r, v] =>
        match register r, numberIn 32 v with
        | some r, some v => some (.setSnapshot r v)
        | _, _ => none
      | _ => none
    else if t = "recover".toList then
      match ts with
      | [a, b] =>
        match register a, register b with
        | some a, some b => some (.recover a b)
        | _, _ => none
      | _ => none
    else if t = "isa".toList then
      if ts = ["mips32".toList, "big".toList] then some (.setIsa .mips32 .big)
      else if ts = ["mips32".toList, "little".toList] then some (.setIsa .mips32 .little)
      else if ts = ["micromips".toList, "big".toList] then some (.setIsa .microMips .big)
      else if ts = ["micromips".toList, "little".toList] then some (.setIsa .microMips .little)
      else none
    else none

/-- The command that a line of text stands for (rule R95). -/
def assemble (line : String) : Option Instr := assembleTokens (tokens line.toList)

/-- The q.add commands that `q.li $r, v` expands into while S.isa is `isa` (rule R96); `optimize` is false with noopt.
Rule R96 does not say what words its `lui` and `ori` stand for while S.isa = MICROMIPS. DESIGN CHOICE, log entry 37: they
stand for the words that Q_ADD_LI appends there, those of MM_ENC (rules R94, R115). -/
def expandLi (isa : Isa) (r : RegNum) (optimize : Bool) (v : Word) : List Instr :=
  let hi := v.extractLsb' 16 16
  let lo := v.extractLsb' 0 16
  if optimize && lo == 0#16 then [.qAdd (luiFor isa r hi) 0#32]
  else if optimize && hi == 0#16 then [.qAdd (oriFor isa r 0 lo) 0#32]
  else [.qAdd (luiFor isa r hi) 0#32, .qAdd (oriFor isa r r lo) 0#32]

end Sys2Proof.Machine
end

