-- ==== Sys2Proof/Safety.lean ====
section
/-! DEFINITION. The terms claims are stated in: what the host sees and must do (rule R268), when a machine is between commands,
and the invariant of every step. -/

namespace Sys2Proof.Safety

open Sys2Proof.Machine

/-! ## The host's side (rule R268) -/

/-- What the host may read, and when: S.status, S.diag and a word of OUT, while E.phase is IDLE (rule R268, D46). -/
structure HostView where
  status : Kind
  diag : Diag
  /-- none where OUT has no such word -/
  outWord : Option Word
  deriving DecidableEq, Repr

/-- OUT[i], which exists for i < PARAM_OUT_WORDS (rule R39). -/
def outWord? (i : Nat) (s : State) : Option Word := if i < s.cfg.paramOutWords then some (s.out.read i) else none

/-- The host reads S.status, S.diag and OUT[i]; none while a command runs (rule R268). -/
def hostReads (i : Nat) (s : State) : Option HostView :=
  if s.exe.phase = .idle then some { status := s.ses.status, diag := s.ses.diag, outWord := outWord? i s } else none

/-- A queue runs within the text window: the host's duty 2 (rules R62, R268), a condition and no check of the block. -/
abbrev fitsTextWindow (cfg : Config) (entries : List Entry) : Prop :=
  cfg.textBase.toNat + 4 * entries.length ≤ cfg.paramOutBase.toNat

/-! ## Between commands -/

/-- No command is running and nothing is left over from one (rules R30, R40, R266). -/
structure Quiet (s : State) : Prop where
  run : s.run = .reset
  phase : s.exe.phase = .idle
  pending : s.exe.pending = none
  log : s.log = []
  queued : s.port.queued = []

/-! ## The invariant -/

/-- A store address an entry may carry: 0, or one inside the output window (rules R84, R112). -/
abbrev storeOk (cfg : Config) (a : Word) : Prop := a = 0#32 ∨ validStoreAddr cfg a = true

/-- What holds of Q after every step (rules R27, R28, R112, R114). -/
structure QueueInv (s : State) : Prop where
  count : s.que.storeCount = countStores s.que.entries
  addrs : ∀ e ∈ s.que.entries, storeOk s.cfg e.addr
  room : ∀ n, s.cfg.queueCapacity = some n → s.que.entries.length ≤ n

/-- What holds of OUT after every step (rules R39, R63): the canonical form, and no index outside the window. -/
structure OutInv (s : State) : Prop where
  wf : s.out.wf
  inside : ∀ c ∈ s.out, c.1 < s.cfg.paramOutWords

/-- The runs of the synchronous executor (rules R170, R263). -/
def isSyncCtx : Ctx → Bool
  | .execSync | .recover _ _ | .exitRecovery _ => true
  | .execBatched | .feed => false

/-- The runs of the recovery program (rule R263). -/
def isRecoveryCtx : Ctx → Bool
  | .recover _ _ | .exitRecovery _ => true
  | .execSync | .execBatched | .feed => false

/-- A run is in the synchronous executor. -/
abbrev syncRun (s : State) : Prop := (s.run.ctx.any isSyncCtx) = true

/-- A synchronous run waits to observe: it executes with an entry to feed, or is in the final check (rules R31, R36). -/
abbrev toObserve (s : State) : Prop :=
  syncRun s ∧
    ((s.exe.phase = .executing ∧ s.exe.codeCount < s.run.prog.length ∧ s.exe.pass = false) ∨ s.exe.phase = .finalCheck)

/-- A synchronous run is in FLUSH: a restart is due and there is budget for it (rules R34, R38, R173). -/
abbrev flushing (s : State) : Prop :=
  syncRun s ∧ s.exe.phase = .restarting ∧ s.exe.restartCount < s.cfg.restartLimit ∧ s.exe.lastMismatch.isSome = true ∧
    s.run.prog ≠ []

/-- The position of the running command agrees with its context and with E. -/
def pointOk (s : State) : Prop :=
  match s.run.point with
  | .idle => s.run = .reset ∧ s.exe.phase = .idle
  | .poll .cycle _ | .addr .cycle _ _ => toObserve s
  | .poll (.flush i) _ => flushing s ∧ i < s.cfg.flushSeq.length
  | .poll (.extra j) _ | .addr (.extra j) _ _ => flushing s ∧ j < s.cfg.flushExtraMax
  | .poll (.feed k) _ => s.run.ctx = some .feed ∧ s.exe.phase = .executing ∧ k < s.run.prog.length
  | .addr (.flush _) _ _ | .addr (.feed _) _ _ => False
  | .drain => syncRun s ∧ s.exe.phase = .finalCheck
  | .feedEnd => s.run.ctx = some .feed ∧ s.exe.phase = .executing
  | .batch plan =>
    s.run.ctx = some .execBatched ∧ s.exe.phase = .executing ∧ plan.map Prod.fst = buildSlots s.cfg s.run.prog

/-- What holds of E and of the running command after every step. -/
structure RunInv (s : State) : Prop where
  /-- E.phase and the position agree (rules R30, R171) -/
  point : pointOk s
  /-- the program's store addresses are those of a queue (rules R112, R264) -/
  prog : ∀ e ∈ s.run.prog, storeOk s.cfg e.addr
  /-- E.max_store_addr is 0 or a flagged entry's address (rule R33) -/
  maxStore : storeOk s.cfg s.exe.maxStoreAddr
  /-- a deferred read has an index in OUT (rules R37, R63) -/
  pending : ∀ d, s.exe.pending = some d → validStoreAddr s.cfg d.addr = true
  /-- only a synchronous EXEC defers a read (rules R37, R264) -/
  owner : s.run.ctx ≠ some .execSync → s.exe.pending = none
  /-- the recovery program stores nothing (rule R264) -/
  recovery : (s.run.ctx.any isRecoveryCtx) = true → s.exe.storePending = 0 ∧ ∀ e ∈ s.run.prog, e.addr = 0#32
  /-- the restart budget (rule R34; a resync may use 1 of a budget of 0, log entry 35) -/
  budget : s.exe.restartCount ≤ max s.cfg.restartLimit 1

/-- The invariant of every step. LOG is empty between steps: the batched executor fills and empties it in one
(rules R40, R229). -/
structure StepInv (s : State) : Prop where
  queue : QueueInv s
  out : OutInv s
  run : RunInv s
  log : s.log = []

/-! ## Terms of the statements about one cycle -/

/-- A running command waits for the address of an access whose control word was `c`; the scan will be answered, by `a`. -/
structure AwaitsAddress (s : State) (w : Wait) (isStore : Bool) (c a : Word) : Prop where
  point : s.run.point = .addr w isStore c
  inbox : s.inbox = []
  queued : s.port.queued = []
  answered : s.input.fails.head? = some false
  answer : s.input.words.head? = some a

/-- OUT once a deferred read that may be pending is resolved (rules R174, R186). -/
def outResolved (s : State) : Memory :=
  match s.exe.pending with
  | none => s.out
  | some d => s.out.write (outIndex s.cfg d.addr) (capturedWord s d.handle)

/-- The state after the address scan of OBSERVE answered `a` (rules R144, R145): the scan is issued, one transport draw and
one word are taken, and S.last_ctrl and S.last_addr are written. -/
def observed (c a : Word) (s : State) : State :=
  { s with
    ses := { s.ses with lastCtrl := c, lastAddr := a }
    port := { s.port with ir := s.cfg.ir.address, trace := .scan32 0#32 :: .setIR s.cfg.ir.address :: s.port.trace }
    input := { s.input with words := s.input.words.tail, fails := s.input.fails.tail } }

/-- The state after steps S1 and S2 of a cycle that observed the access (c, a) (rules R171, R174). -/
def cycleStart (c a : Word) (s : State) : State :=
  { observed c a s with out := outResolved s, exe := { s.exe with pending := none } }

/-- The port after FEED(w) and FINISH (rules R146, R148). -/
def portFed (cfg : Config) (laneWord : Word) (p : Port) : Port :=
  { p with
    ir := cfg.ir.control
    queued := p.queued ++ [.discard, .discard]
    trace := .scan32Q (finWord cfg) :: .setIR cfg.ir.control :: .scan32Q laneWord :: .setIR cfg.ir.data :: p.trace }

/-- The end of FLUSH (rules R152, R173, R177): one restart more is counted, the attempt's own counters are reset, and its first
cycle is to observe. -/
def newAttempt (s : State) : State :=
  { s with
    exe :=
      { s.exe with
        phase := .executing
        codeCount := 0
        storePending := 0
        maxStoreAddr := 0#32
        pass := false
        restartCount := s.exe.restartCount + 1 }
    run := { s.run with point := .poll .cycle 0 } }

/-- An instruction word as the session's flags put it on the scan lane (rule R153). -/
abbrev laneOf (s : State) (w : Word) : Word := encLane s.cfg s.ses.isa s.ses.endian w

/-! ## Terms of the statements about whole commands -/

/-- QUEUE_CAPACITY leaves room for `k` more entries (P16, rule R113). -/
abbrev roomFor (s : State) (k : Nat) : Prop := ∀ n, s.cfg.queueCapacity = some n → s.que.entries.length + k ≤ n

/-- No register of the snapshot is valid, so that a recovery has nothing to run (rules R263, R264). -/
abbrev noSnapshot (s : State) : Prop :=
  s.ses.snap.r8.valid = false ∧ s.ses.snap.r9.valid = false ∧ s.ses.snap.r10.valid = false ∧ s.ses.snap.r15.valid = false

/-- The state after an error exit that runs no recovery (rule R298). -/
def failedWith (k : Kind) (r : Reason) (s : State) : State :=
  { s with
    ses := { s.ses with status := k, diag := diagnose r s }
    exe := { s.exe with phase := .idle, pending := none }
    log := []
    run := .reset }

/-- The words a target gives the synchronous executor for one access: its control word and address, and for a store its
datum (rules R145, R147). -/
def accessWords (p : Slot × Record) : List Word :=
  if p.1.isStore then [p.2.ctrl, p.2.addr, p.2.data] else [p.2.ctrl, p.2.addr]

/-- What a cycle issues on the scan port for one access, oldest first: OBSERVE, FEED or CAPTURE, FINISH (rules R143 to R148).
`laneWord` is 0 for a CAPTURE. -/
def cycleOps (cfg : Config) (laneWord : Word) : List PortOp :=
  [.setIR cfg.ir.control, .scan32 cfg.ctrlBase, .setIR cfg.ir.address, .scan32 0#32, .setIR cfg.ir.data,
    .scan32Q laneWord, .setIR cfg.ir.control, .scan32Q (finWord cfg)]

/-- What the last cycle of a successful run issues, oldest first: OBSERVE, and DRAIN's ExecQueued (rules R181, R186). -/
def returnOps (cfg : Config) : List PortOp :=
  [.setIR cfg.ir.control, .scan32 cfg.ctrlBase, .setIR cfg.ir.address, .scan32 0#32, .execQueued]

/-- What FEED_UNCHECKED issues for one access, oldest first (rule R260). -/
def uncheckedOps (cfg : Config) (laneWord : Word) : List PortOp :=
  [.setIR cfg.ir.control, .scan32 cfg.ctrlBase, .setIR cfg.ir.data, .scan32Q laneWord, .setIR cfg.ir.control,
    .scan32Q (finWord cfg)]

/-- What a slot of a batch issues, oldest first (rules R149, R223). -/
def slotOps (cfg : Config) (data : Word) : List PortOp :=
  [.pace cfg.pacingClocks, .scan96Q { ctrl := finWord cfg, data := data, addr := 0#32 }]

/-- The word on the data lane in a slot's exchange: the entry's word, or 0 for a store (rules R146, R147, R223). -/
def slotLane (s : State) (prog : List Entry) (slot : Slot) : Word :=
  if slot.isStore then 0#32 else laneOf s (entryAt prog slot.k).instr

/-- The OUT words that accesses store, in order (rules R63, R229). -/
def storesOf (cfg : Config) (accesses : List (Slot × Record)) : List (Nat × Word) :=
  accesses.filterMap fun p => if p.1.isStore then some (outIndex cfg p.2.addr, p.2.data) else none

/-- The accesses are those of the batched plan of a program, each as its slot expects it (rules R222, R225). -/
structure FollowsPlan (cfg : Config) (prog : List Entry) (accesses : List (Slot × Record)) : Prop where
  plan : accesses.map Prod.fst = buildSlots cfg prog
  expected : ∀ p ∈ accesses, checkSlot cfg prog p.1 p.2 = none

/-- A control word of class FETCH (rule R85). -/
abbrev isFetch (cfg : Config) (c : Word) : Prop := classify cfg.praccBit cfg.prnwBit c = .fetch

/-- A control word of a pending access (rule R85). -/
abbrev isPending (cfg : Config) (c : Word) : Prop := c.getLsbD cfg.praccBit = true

/-- What the slot of a batch requires of its record: the class and the address (rule R225). -/
def SlotPasses (cfg : Config) (prog : List Entry) (slot : Slot) (r : Record) : Prop :=
  if slot.isStore then
    classify cfg.praccBit cfg.prnwBit r.ctrl = .store ∧ r.addr = (entryAt prog slot.k).addr
  else isFetch cfg r.ctrl ∧ r.addr = textAddr cfg slot.k

/-- The failure that a record raises which breaks its slot (rules R227, R228): a check comes into play where the record meets
the checks before it. -/
inductive SlotBreaks (cfg : Config) (prog : List Entry) (slot : Slot) (r : Record) : Kind → Reason → Prop where
  | notPending (h : ¬ isPending cfg r.ctrl) : SlotBreaks cfg prog slot r .desync .batchNotPending
  | fetchForStore (hs : slot.isStore = true) (hc : isFetch cfg r.ctrl) :
    SlotBreaks cfg prog slot r .desync .batchDirStoreExpected
  | storeAddr (hs : slot.isStore = true) (hc : classify cfg.praccBit cfg.prnwBit r.ctrl = .store)
    (ha : r.addr ≠ (entryAt prog slot.k).addr) : SlotBreaks cfg prog slot r .desync .batchStoreAddr
  | storeForFetch (hs : slot.isStore = false) (hc : classify cfg.praccBit cfg.prnwBit r.ctrl = .store) :
    SlotBreaks cfg prog slot r .desync .batchDirFetchExpected
  | earlyReturn (hs : slot.isStore = false) (hc : isFetch cfg r.ctrl) (ha : r.addr ≠ textAddr cfg slot.k)
    (ht : r.addr = cfg.textBase) : SlotBreaks cfg prog slot r .unexpectedReturn .batchReturn
  | fetchAddr (hs : slot.isStore = false) (hc : isFetch cfg r.ctrl) (ha : r.addr ≠ textAddr cfg slot.k)
    (ht : r.addr ≠ cfg.textBase) : SlotBreaks cfg prog slot r .desync .batchFetchAddr

/-- An attempt that ends in a fetch mismatch (rule R190): so many entries are fetched in order, then comes a fetch at an
address; should FLUSH follow, its extra loop sees fetches at another one. -/
structure Attempt where
  fetched : Nat
  stray : Word
  flushSees : Word
  deriving DecidableEq, Repr

/-- The words a target gives in an attempt, all fetches with control word `c` (rules R145, R180). -/
def attemptWords (cfg : Config) (c : Word) (x : Attempt) : List Word :=
  ((List.range x.fetched).flatMap fun k => [c, textAddr cfg k]) ++ [c, x.stray]

/-- The words a target gives FLUSH after an attempt (rule R152): a control word for each word of FLUSH_SEQ, then the rounds of
the extra loop, which a fetch at TEXT_BASE ends. -/
def flushAnswers (cfg : Config) (c : Word) (x : Attempt) : List Word :=
  List.replicate cfg.flushSeq.length c ++
    (List.replicate (if x.flushSees = cfg.textBase then min 1 cfg.flushExtraMax else cfg.flushExtraMax)
      [c, x.flushSees]).flatten

/-- The last entry of a program expects no store (rule R233, for STORE_SCAN_LAG = 1). -/
abbrev lastEntryPlain (prog : List Entry) : Prop := (entryAt prog (prog.length - 1)).addr = 0#32

/-- A straight run of fetches at TEXT_BASE, TEXT_BASE + 4, … and back at TEXT_BASE, all with control word `c`. -/
def straightWords (cfg : Config) (c : Word) (n : Nat) : List Word :=
  ((List.range n).flatMap fun k => [c, textAddr cfg k]) ++ [c, cfg.textBase]

/-- The target executes words one after another (rules R89 to R93). -/
def executeWords : List Word → State → Option State
  | [], s => some s
  | w :: ws, s =>
    match stepTarget w s with
    | .next t => executeWords ws t
    | .fault _ | .refused _ => none

/-- Commands one after another, each answering a next state. -/
def executeAll : List Instr → State → Option State
  | [], s => some s
  | i :: is, s =>
    match exec i s with
    | .next t => executeAll is t
    | .fault _ | .refused _ => none

end Sys2Proof.Safety
end

