-- ==== Sys2Proof/Certificates/Slice0/Obligations.lean ====
section
/-! DEFINITION. The statements for the provers. Each names the rules it formalises; OBLIGATIONS.json lists them. -/

open Sys2Proof Sys2Proof.Machine Sys2Proof.Safety

/-! ## Reset -/

/-- What rules R330, R331 give at session open, for every configuration; the default mode is SYNC (P19). -/
def Obligations.ResetGivesTheStatedValues : Prop :=
  ∀ cfg : Config,
    let s := State.resetWith cfg
    s.cfg = cfg ∧ s.ses.mode = cfg.initialMode ∧ noSnapshot s ∧ s.ses.scratchSuspect = false ∧ s.ses.isa = .mips32 ∧
      s.ses.status = .ok ∧ s.ses.diag.reason = none ∧ s.que = { entries := [], storeCount := 0, error := false } ∧
      s.exe.phase = .idle ∧ s.log = [] ∧ s.port.trace = [] ∧ State.reset.ses.mode = .sync

/-- The invariant of every step holds of the machine at session open, under every configuration; the values the spec leaves
open are those of log entries 21 to 23. -/
def Obligations.ResetMeetsTheInvariant : Prop := ∀ cfg : Config, StepInv (State.resetWith cfg) ∧ Quiet (State.resetWith cfg)

/-! ## Encodings -/

/-- Some words written out from rules R81, R85 and R89 to R93 decode to the instructions they stand for. -/
def Obligations.WrittenOutWordsDecode : Prop :=
  decode .command [0x00000000#32, 7#32, 9#32] = .ok .qInit ∧
  decode .command [0x00000001#32, 0xADE82000#32, 0xFF202000#32] = .ok (.qAdd 0xADE82000#32 0xFF202000#32) ∧
  decode .command [0x00004082#32, 0x12345678#32, 0#32] = .ok (.qAddLi 8 true 0x12345678#32) ∧
  decode .command [0x00004005#32, 0#32, 0#32] = .ok (.setMode .batched) ∧
  decode .command [0x00001E87#32, 0#32, 0#32] = .ok (.recover 8 15) ∧
  decode .command [0x0000C008#32, 0#32, 0#32] = .ok (.setIsa .microMips .little) ∧
  decode .control [0x000C8000#32] = .ok (.ctrlStore 0x000C8000#32) ∧
  decode .control [0xFFFBFFFF#32] = .ok (.ctrlNotPending 0xFFFBFFFF#32) ∧
  decode .word [0x3C081234#32] = .ok (.lui 8 0x1234) ∧
  decode .word [0x35085678#32] = .ok (.ori 8 8 0x5678) ∧
  decode .word [0x0BC80080#32] = .ok (.j 0x3C80080) ∧
  decode .word [0x1000FFFC#32] = .ok (.b 0xFFFC)

/-- Decoding an encoded well-formed instruction gives it back, for every instruction and every operand. -/
def Obligations.DecodeOfEncodeIsTheInstruction : Prop :=
  ∀ i : Instr, i.wf = true → decode i.surface (encode i) = .ok i

/-- Where a word sequence decodes, encoding the instruction gives back the first word, and on the one-word surfaces all of
it: no two words of a surface stand for one instruction but for the words W1 and W2 that a command ignores. -/
def Obligations.EncodeOfDecodeIsTheWord : Prop :=
  (∀ w0 w1 w2 i, decode .command [w0, w1, w2] = .ok i → i.surface = .command ∧ (encode i).head? = some w0) ∧
  (∀ c i, decode .control [c] = .ok i → i.surface = .control ∧ i.wf = true ∧ encode i = [c]) ∧
  (∀ w i, decode .word [w] = .ok i → i.surface = .word ∧ encode i = [w])

/-- The classes of a captured control word, and that no bit but the two named is read (rule R85). -/
def Obligations.ControlWordsClassifyByTwoBits : Prop :=
  ∀ (praccBit prnwBit : Fin 32) (c : Word),
    (classify praccBit prnwBit c = .notPending ↔ c.getLsbD praccBit = false) ∧
    (classify praccBit prnwBit c = .fetch ↔ c.getLsbD praccBit = true ∧ c.getLsbD prnwBit = false) ∧
    (classify praccBit prnwBit c = .store ↔ c.getLsbD praccBit = true ∧ c.getLsbD prnwBit = true) ∧
    ∀ d : Word, d.getLsbD praccBit = c.getLsbD praccBit → d.getLsbD prnwBit = c.getLsbD prnwBit →
      classify praccBit prnwBit d = classify praccBit prnwBit c

/-- The 96 bits of a record hold its three fields where rule R87 puts them: ctrl in bits 31..0, data in bits 63..32,
addr in bits 95..64; and the 96 bits are no more and no less than the fields. -/
def Obligations.RecordFieldsKeepTheirPlaces : Prop :=
  (∀ (r : Record) (i : Nat), i < 32 →
    (packRecord r).getLsbD i = r.ctrl.getLsbD i ∧ (packRecord r).getLsbD (32 + i) = r.data.getLsbD i ∧
      (packRecord r).getLsbD (64 + i) = r.addr.getLsbD i) ∧
  (∀ r : Record, unpackRecord (packRecord r) = r) ∧ ∀ v : BitVec 96, packRecord (unpackRecord v) = v

/-- FIN is CTRL_BASE with the handshake bit cleared and every other bit as it was; CTRL_BASE itself has the bit set (rule
R86). -/
def Obligations.FinishWordClearsOnlyTheHandshakeBit : Prop :=
  ∀ (cfg : Config) (i : Fin 32),
    cfg.ctrlBase.getLsbD cfg.praccBit = true ∧
      (finWord cfg).getLsbD i = if i = cfg.praccBit then false else cfg.ctrlBase.getLsbD i

/-- `enc` exchanges the two half-words exactly where SWAP16 says so: bit `i` of the lane word is the bit 16 places on of the
word, or bit `i`; done twice it gives the word back (rule R153). -/
def Obligations.LaneWordsSwapHalves : Prop :=
  ∀ (cfg : Config) (isa : Isa) (endian : Endian) (w : Word),
    (∀ i, i < 32 →
      (encLane cfg isa endian w).getLsbD i = w.getLsbD (if swap16 cfg isa endian then (i + 16) % 32 else i)) ∧
    encLane cfg isa endian (encLane cfg isa endian w) = w

/-- The addresses that rule R112 accepts and the indices of OUT correspond one to one: a valid address has its index
inside OUT and is the address of that index, two valid addresses with one index are one address, and each index of OUT
is that of the valid address PARAM_OUT_BASE + 4 × i (rule R63). -/
def Obligations.ValidStoreAddressesIndexOut : Prop :=
  ∀ cfg : Config,
    (∀ a b : Word, validStoreAddr cfg a = true → validStoreAddr cfg b = true →
      outIndex cfg a < cfg.paramOutWords ∧ cfg.paramOutBase + BitVec.ofNat 32 (4 * outIndex cfg a) = a ∧
        (outIndex cfg a = outIndex cfg b → a = b)) ∧
    ∀ i, i < cfg.paramOutWords →
      validStoreAddr cfg (cfg.paramOutBase + BitVec.ofNat 32 (4 * i)) = true ∧
        outIndex cfg (cfg.paramOutBase + BitVec.ofNat 32 (4 * i)) = i

/-! ## The step -/

/-- A step runs the decoded instruction. With no command running, the command record at the head of the inbox runs,
the record taken out; one that does not decode takes the error exit with R_ILLEGAL_COMMAND. In a running command that
polls, whether or not a command record waits in the inbox, the captured control word runs in the state after its scan.
A word at the head of the inbox for the target to execute runs in any state under MIPS32. The inbox, the size of a
step and the words of the target are those of log entries 7, 10 and 12. -/
def Obligations.StepRunsTheDecodedInstruction : Prop :=
  (∀ (s : State) (w0 w1 w2 : Word) (rest : List Msg),
    s.inbox = .command w0 w1 w2 :: rest → s.run.point = .idle →
      (∀ i, decode .command [w0, w1, w2] = .ok i → step s = exec i { s with inbox := rest }) ∧
      (∀ e, decode .command [w0, w1, w2] = .error e →
        step s = .next (errorExit none .illegal .illegalCommand { s with inbox := rest }))) ∧
  (∀ (s u : State) (wait : Wait) (polls : Nat) (c : Word),
    (s.inbox = [] ∨ ∃ w0 w1 w2 rest, s.inbox = .command w0 w1 w2 :: rest) →
    s.run.point = .poll wait polls → scanControl polls s = .got c u →
      step s = exec (decodeControl s.cfg.praccBit s.cfg.prnwBit c) u) ∧
  (∀ (s : State) (w : Word) (rest : List Msg) (i : Instr),
    s.inbox = .targetExec w :: rest → s.ses.isa = .mips32 → decode .word [w] = .ok i →
      step s = exec i { s with inbox := rest })

/-- A command record waits while a command runs, and with no command running and an empty inbox nothing changes (rules R8,
R266, R304). -/
def Obligations.CommandsWaitForTheRunningCommand : Prop :=
  (∀ (s : State) (w0 w1 w2 : Word) (rest : List Msg), s.inbox = .command w0 w1 w2 :: rest → s.run.point ≠ .idle →
    ∃ t, step s = .next t ∧ t.inbox = s.inbox) ∧
  (∀ s : State, s.inbox = [] → s.run.point = .idle → step s = .next s)

/-- A record with a 1 in a field its opcode does not use, and every record of opcode 0x9 to 0xF, ends at once with
Fail(ILLEGAL, R_ILLEGAL_COMMAND): between commands, only S.status and S.diag change and no scan is issued (rule R83). -/
def Obligations.IllegalRecordsChangeOnlyStatusAndDiag : Prop :=
  (∀ (s : State) (w0 w1 w2 : Word) (rest : List Msg), Quiet s → s.inbox = .command w0 w1 w2 :: rest →
    (9 ≤ (opField w0).toNat ∨ w0 &&& unusedMask (opField w0) ≠ 0#32) →
      step s = .next
        { s with
          inbox := rest
          ses := { s.ses with status := .illegal, diag := diagnose .illegalCommand s } }) ∧
  (∀ (s : State) (i : Instr), Quiet s →
    ((∃ r, i = .reservedCmd9 r) ∨ (∃ r l, i = .reservedCmdAB r l) ∨ (∃ r l, i = .reservedCmdCF r l)) →
      exec i s = .next { s with ses := { s.ses with status := .illegal, diag := diagnose .illegalCommand s } })

/-! ## Queue building -/

/-- Q_INIT: W0 = 0 decodes to it, and it empties Q, whatever it held and whether or not it was in error (rule R110). -/
def Obligations.QInitEmptiesTheQueue : Prop :=
  (∀ w1 w2 : Word, decode .command [0#32, w1, w2] = .ok .qInit) ∧
  ∀ s : State,
    exec .qInit s =
      .next { s with que := { entries := [], storeCount := 0, error := false }, ses := { s.ses with status := .ok } }

/-- Q_ADD on a queue that is not in error, with store_addr 0 or valid, room in the queue and no allocation failure: the entry
is appended and counted, and nothing else changes but the status and the draw taken (rules R111, R113, R114). -/
def Obligations.QAddAppendsItsEntry : Prop :=
  ∀ (s : State) (instr addr : Word) (allocs : List Bool),
    s.que.error = false → storeOk s.cfg addr → atCapacity s.cfg s.que.entries.length = false →
    s.input.allocs = false :: allocs →
      exec (.qAdd instr addr) s =
        .next
          { s with
            que :=
              { entries := s.que.entries ++ [{ instr := instr, addr := addr }]
                storeCount := s.que.storeCount + (if addr = 0#32 then 0 else 1)
                error := false }
            ses := { s.ses with status := .ok }
            input := { s.input with allocs := allocs } }

/-- A store address is valid when it is aligned and lies in the output window; Q_ADD with a non-zero one that is not ends with
ILLEGAL, R_BAD_OPERAND, Q.error set and nothing appended (rules R111, R112). -/
def Obligations.QAddRefusesInvalidStoreAddresses : Prop :=
  (∀ (cfg : Config) (addr : Word), validStoreAddr cfg addr = true ↔
    addr.toNat % 4 = 0 ∧ cfg.paramOutBase.toNat ≤ addr.toNat ∧
      addr.toNat < cfg.paramOutBase.toNat + 4 * cfg.paramOutWords) ∧
  ∀ (s : State) (instr addr : Word), Quiet s → s.que.error = false → addr ≠ 0#32 → validStoreAddr s.cfg addr = false →
    exec (.qAdd instr addr) s =
      .next
        { s with
          que := { s.que with error := true }
          ses := { s.ses with status := .illegal, diag := diagnose .badOperand s } }

/-- While Q.error is set, Q_ADD, Q_ADD_LI, EXEC and FEED_UNCHECKED change nothing but S.status and S.diag, and raise
RESOURCE, R_QUEUE_ERROR; no scan is issued and the mode stays, for EXEC in batched mode by log entry 24 (rules R29, R113,
R170, R260, R296). -/
def Obligations.AnErroredQueueRefusesWork : Prop :=
  ∀ (s : State) (i : Instr), Quiet s → s.que.error = true →
    ((∃ w a, i = .qAdd w a) ∨ (∃ r o v, i = .qAddLi r o v) ∨ i = .exec ∨ i = .feedUnchecked) →
      exec i s = .next { s with ses := { s.ses with status := .resource, diag := diagnose .queueError s } }

/-- A first append that fails, by capacity or by allocation, of Q_ADD or of Q_ADD_LI in either form: Q.error is set
and nothing is appended (rules R113, R115). -/
def Obligations.AFailedAppendSetsTheQueueError : Prop :=
  ∀ (s : State) (i : Instr) (fail : Bool) (allocs : List Bool), Quiet s →
    s.que.error = false → s.input.allocs = fail :: allocs →
    ((∃ instr addr, storeOk s.cfg addr ∧ i = .qAdd instr addr) ∨ ∃ reg optimize value, i = .qAddLi reg optimize value) →
    (fail = true ∨ s.cfg.queueCapacity = some s.que.entries.length) →
      exec i s =
        .next
          { s with
            que := { s.que with error := true }
            ses := { s.ses with status := .resource, diag := diagnose .alloc s }
            input := { s.input with allocs := allocs } }

/-- Q_ADD_LI, where QUEUE_CAPACITY leaves room for its words and no allocation fails, appends exactly the words of
rule R115, with no store address, and changes nothing else but the status and the draws taken: the word count is 1
exactly when `optimize` holds and a half of the value is 0, else 2 (rules R115, R118). -/
def Obligations.QAddLiAppendsOneOrTwoWords : Prop :=
  ∀ (s : State) (reg : RegNum) (optimize : Bool) (value : Word) (allocs : List Bool),
    let hi := value.extractLsb' 16 16
    let lo := value.extractLsb' 0 16
    let words :=
      if optimize = true ∧ lo = 0#16 then [luiFor s.ses.isa reg hi]
      else if optimize = true ∧ hi = 0#16 then [oriFor s.ses.isa reg 0 lo]
      else [luiFor s.ses.isa reg hi, oriFor s.ses.isa reg reg lo]
    words.length = (if optimize = true ∧ (lo = 0#16 ∨ hi = 0#16) then 1 else 2) ∧
      (s.que.error = false → roomFor s words.length → s.input.allocs = List.replicate words.length false ++ allocs →
        exec (.qAddLi reg optimize value) s =
          .next
            { s with
              que := { s.que with entries := s.que.entries ++ words.map fun w => { instr := w, addr := 0#32 } }
              ses := { s.ses with status := .ok }
              input := { s.input with allocs := allocs } })

/-- When the second append of a two-word Q_ADD_LI fails, with `optimize` or without, by allocation or at a capacity
that the first word has reached, the first word stays in Q and Q.error is set (rules R113, R115). -/
def Obligations.QAddLiKeepsItsFirstWordOnFailure : Prop :=
  ∀ (s : State) (reg : RegNum) (optimize : Bool) (value : Word) (fail : Bool) (allocs : List Bool), Quiet s →
    s.que.error = false → roomFor s 1 → s.input.allocs = false :: fail :: allocs →
    (optimize = false ∨ (value.extractLsb' 0 16 ≠ 0#16 ∧ value.extractLsb' 16 16 ≠ 0#16)) →
    (fail = true ∨ s.cfg.queueCapacity = some (s.que.entries.length + 1)) →
      exec (.qAddLi reg optimize value) s =
        .next
          { s with
            que :=
              { s.que with
                entries := s.que.entries ++ [{ instr := luiFor s.ses.isa reg (value.extractLsb' 16 16), addr := 0#32 }]
                error := true }
            ses := { s.ses with status := .resource, diag := diagnose .alloc s }
            input := { s.input with allocs := allocs } }

/-- q.li is q.add, once or twice: where QUEUE_CAPACITY leaves room for its words and no allocation fails, the
pseudo-instruction and its expansion leave the same state (rules R96, R115; under MICROMIPS the words of the expansion are
the model's choice, log entry 37). -/
def Obligations.LoadImmediateIsItsExpansion : Prop :=
  ∀ (s : State) (reg : RegNum) (optimize : Bool) (value : Word) (allocs : List Bool),
    s.que.error = false → roomFor s (expandLi s.ses.isa reg optimize value).length →
    s.input.allocs = List.replicate (expandLi s.ses.isa reg optimize value).length false ++ allocs →
      ∃ t, exec (.qAddLi reg optimize value) s = .next t ∧
        executeAll (expandLi s.ses.isa reg optimize value) s = some t

/-- The words of Q_ADD_LI, executed by the target, leave the full value in the register, whatever was in it, in the
optimized form and in the two-word form alike; a register other than it keeps its value, and $0 stays 0 (rules R115 to
R117). -/
def Obligations.LoadImmediateLoadsTheValue : Prop :=
  ∀ (s : State) (reg r : RegNum) (optimize : Bool) (value : Word), s.ses.isa = .mips32 →
    ∃ t, executeWords (liWords .mips32 reg optimize value) s = some t ∧
      readGpr t.target r = (if r = reg ∧ r ≠ 0 then value else readGpr s.target r)

/-! ## Session commands -/

/-- SET_MODE: b14 of its W0 chooses the mode, and it writes S.mode and S.status and nothing else (rule R261). -/
def Obligations.SetModeWritesTheMode : Prop :=
  (∀ w0 w1 w2 : Word, w0 &&& 0xFFFFBFFF#32 = 5#32 →
    decode .command [w0, w1, w2] = .ok (.setMode (if w0.getLsbD 14 then .batched else .sync))) ∧
  ∀ (s : State) (mode : Mode), exec (.setMode mode) s = .next { s with ses := { s.ses with mode := mode, status := .ok } }

/-- SET_ISA: b14 and b15 of its W0 choose the flags, and it writes them and S.status and nothing else (rule R265). -/
def Obligations.SetIsaWritesTheFlags : Prop :=
  (∀ w0 w1 w2 : Word, w0 &&& 0xFFFF3FFF#32 = 8#32 →
    decode .command [w0, w1, w2] =
      .ok (.setIsa (if w0.getLsbD 14 then .microMips else .mips32) (if w0.getLsbD 15 then .little else .big))) ∧
  ∀ (s : State) (isa : Isa) (endian : Endian),
    exec (.setIsa isa endian) s = .next { s with ses := { s.ses with isa := isa, endian := endian, status := .ok } }

/-- SET_SNAPSHOT: W0[8:4] is its register and W1 its value; it writes the cell of a register of SCRATCH_SET and no other, and
refuses every other register (rule R262). -/
def Obligations.SetSnapshotWritesOneCell : Prop :=
  (∀ w0 w1 w2 : Word, w0 &&& 0xFFFFFE0F#32 = 6#32 →
    decode .command [w0, w1, w2] = .ok (.setSnapshot (w0.extractLsb' 4 5) w1)) ∧
  (∀ (s : State) (r : Scratch) (value : Word),
    ∃ t, exec (.setSnapshot (scratchNumber r) value) s = .next t ∧
      t = { s with ses := { s.ses with snap := t.ses.snap, status := .ok } } ∧
      snapGet t.ses.snap r = { value := value, valid := true } ∧
      ∀ q, q ≠ r → snapGet t.ses.snap q = snapGet s.ses.snap q) ∧
  (∀ (s : State) (reg : RegNum) (value : Word), Quiet s → reg ≠ 8 → reg ≠ 9 → reg ≠ 10 → reg ≠ 15 →
    exec (.setSnapshot reg value) s =
      .next { s with ses := { s.ses with status := .illegal, diag := diagnose .badOperand s } })

/-- RECOVER refuses first > last, and with no valid register of SCRATCH_SET in its range it ends OK, issues no scan and
leaves S.scratch_suspect (rule R263). -/
def Obligations.RecoverWithNothingToRestore : Prop :=
  (∀ (s : State) (first last : RegNum), Quiet s → last < first →
    exec (.recover first last) s =
      .next { s with ses := { s.ses with status := .illegal, diag := diagnose .badOperand s } }) ∧
  (∀ (s : State) (first last : RegNum), Quiet s → first ≤ last →
    (∀ r, (snapGet s.ses.snap r).valid = true → ¬ (first ≤ scratchNumber r ∧ scratchNumber r ≤ last)) →
      exec (.recover first last) s = .next { s with ses := { s.ses with status := .ok } })

/-- The recovery program loads each valid register of the range, in ascending order, with its snapshot value, then
branches back to TEXT_BASE: executed in order by a target whose first word is at TEXT_BASE, it leaves the snapshot
values in those registers, every other register as it was, and the target at TEXT_BASE (rule R264, under MIPS32, on
the target view and with the delay slot of log entries 12 and 13). -/
def Obligations.RecoveryProgramRestoresTheSnapshot : Prop :=
  ∀ (s : State) (first last : RegNum), s.ses.isa = .mips32 →
    s.target.pc = s.cfg.textBase → s.target.npc = s.cfg.textBase + 4#32 →
    recoveryProgram .mips32 s.ses.snap first last ≠ [] →
      ∃ t, executeWords ((recoveryProgram .mips32 s.ses.snap first last).map Entry.instr) s = some t ∧
        t.target.pc = s.cfg.textBase ∧ t.target.npc = s.cfg.textBase + 4#32 ∧
        ∀ r, readGpr t.target r =
          match scratchOf r with
          | some q =>
            if inRange first last r = true ∧ (snapGet s.ses.snap q).valid = true then (snapGet s.ses.snap q).value
            else readGpr s.target r
          | none => readGpr s.target r

/-- A recovery program is empty or has 3 to 10 entries, none of which expects a store; it is empty exactly where no valid
register of SCRATCH_SET lies in the range (rule R264). -/
def Obligations.RecoveryProgramsHaveThreeToTenWords : Prop :=
  ∀ (isa : Isa) (snap : SnapFile) (first last : RegNum),
    let prog := recoveryProgram isa snap first last
    (prog = [] ↔ ∀ r, (snapGet snap r).valid = true → ¬ (first ≤ scratchNumber r ∧ scratchNumber r ≤ last)) ∧
      (prog ≠ [] → 3 ≤ prog.length ∧ prog.length ≤ 10) ∧ ∀ e ∈ prog, e.addr = 0#32

/-- RECOVER on a target that fetches the recovery program straight through and returns to TEXT_BASE: it ends OK and clears
S.scratch_suspect exactly when its range covers SCRATCH_SET; Q, OUT, the mode and the snapshot stay, and each word of the
program is fed in order (rules R263, R264). -/
def Obligations.RecoverRestoresOnAStraightTarget : Prop :=
  ∀ (s : State) (first last : RegNum) (c : Word) (words : List Word) (fails : List Bool),
    let prog := recoveryProgram s.ses.isa s.ses.snap first last
    Quiet s → first ≤ last → prog ≠ [] → isFetch s.cfg c →
    s.input.words = straightWords s.cfg c prog.length ++ words →
    s.input.fails = List.replicate (2 * (prog.length + 1) + 1) false ++ fails →
      ∃ t, exec (.recover first last) s = .next t ∧ Quiet t ∧ t.ses.status = .ok ∧
        t.ses.scratchSuspect = (if coversScratch first last = true then false else s.ses.scratchSuspect) ∧
        t.que = s.que ∧ t.out = s.out ∧ t.ses.mode = s.ses.mode ∧ t.ses.snap = s.ses.snap ∧ t.ses.diag = s.ses.diag ∧
        t.input.words = words ∧ t.input.fails = fails ∧
        t.port.trace.reverse =
          s.port.trace.reverse ++ prog.flatMap (fun e => cycleOps s.cfg (laneOf s e.instr)) ++ returnOps s.cfg

/-- FEED_UNCHECKED feeds every entry in order to whatever access is pending, reads no address, and changes no part of the
session but the status, nor Q, nor OUT (rule R260). -/
def Obligations.FeedUncheckedFeedsEveryEntry : Prop :=
  ∀ (s : State) (controls words : List Word) (fails : List Bool), Quiet s → s.que.error = false →
    s.que.entries ≠ [] → controls.length = s.que.entries.length → (∀ c ∈ controls, isPending s.cfg c) →
    s.input.words = controls ++ words → s.input.fails = List.replicate (controls.length + 1) false ++ fails →
      ∃ t, exec .feedUnchecked s = .next t ∧ Quiet t ∧ t.ses = { s.ses with status := .ok } ∧ t.exe = s.exe ∧
        t.que = s.que ∧ t.out = s.out ∧ t.target = s.target ∧ t.input.words = words ∧ t.input.fails = fails ∧
        t.port.trace.reverse =
          s.port.trace.reverse ++ s.que.entries.flatMap (fun e => uncheckedOps s.cfg (laneOf s e.instr)) ++ [.execQueued]

/-- EXEC and FEED_UNCHECKED of an empty queue end OK with no scan, in both modes (rules R170, R260; log entry 25). -/
def Obligations.AnEmptyQueueRunsToOk : Prop :=
  ∀ (s : State) (i : Instr), Quiet s → s.que.error = false → s.que.entries = [] → (i = .exec ∨ i = .feedUnchecked) →
    exec i s = .next { s with ses := { s.ses with status := .ok } }

/-! ## One cycle of the synchronous executor -/

/-- Step S3e on a fetch at TEXT_BASE + 4 × code_count: the entry's bookkeeping, its feed and FINISH, after steps S1 and S2;
after the last entry the phase is FINAL_CHECK (rule R180). -/
def Obligations.AMatchingFetchFeedsItsEntry : Prop :=
  ∀ (s : State) (c a : Word) (e : Entry), AwaitsAddress s .cycle false c a → s.exe.phase = .executing →
    s.exe.pass = false → s.run.prog[s.exe.codeCount]? = some e →
    a = s.cfg.textBase + BitVec.ofNat 32 (4 * s.exe.codeCount) →
      let u := cycleStart c a s
      step s = .next
        { u with
          exe :=
            { u.exe with
              maxStoreAddr := if e.addr = 0#32 then u.exe.maxStoreAddr else maxAddr u.exe.maxStoreAddr e.addr
              storePending := if e.addr = 0#32 then u.exe.storePending else u.exe.storePending + 1
              codeCount := s.exe.codeCount + 1
              phase := if s.exe.codeCount + 1 = s.run.prog.length then .finalCheck else .executing }
          port := portFed s.cfg (laneOf s e.instr) u.port
          run := { s.run with point := .poll .cycle 0 } }

/-- Step S3r: the resync resets the attempt without a feed or a FINISH, and goes on to observe (rule R178). -/
def Obligations.TheResyncResetsTheAttempt : Prop :=
  ∀ (s : State) (c a : Word), AwaitsAddress s .cycle false c a → s.exe.phase = .executing →
    s.exe.codeCount = 1 → a = s.cfg.textBase → s.exe.restartCount = 0 → s.exe.resyncUsed = false →
      let u := cycleStart c a s
      step s = .next
        { u with
          exe :=
            { u.exe with
              codeCount := 0
              storePending := 0
              maxStoreAddr := 0#32
              pass := false
              resyncUsed := true
              restartCount := if s.cfg.resyncConsumesBudget then 1 else 0 }
          run := { s.run with point := .poll .cycle 0 } }

/-- Steps S3x and S0 on a fetch mismatch that is no resync, inside RESTART_WINDOW: with budget left FLUSH starts, and the
fetch stays pending, neither fed nor finished; with none left the command fails with the mismatch's kind and
R_RESTART_EXHAUSTED. Outside RESTART_WINDOW it fails at once with R_FETCH_MISMATCH (rules R173, R179, R191). -/
def Obligations.AFetchMismatchRestartsOrFails : Prop :=
  ∀ (s : State) (c a : Word), AwaitsAddress s .cycle false c a → s.exe.phase = .executing →
    a ≠ s.cfg.textBase + BitVec.ofNat 32 (4 * s.exe.codeCount) →
    ¬ (s.exe.codeCount = 1 ∧ a = s.cfg.textBase ∧ s.exe.restartCount = 0 ∧ s.exe.resyncUsed = false) →
      let u := cycleStart c a s
      let kind := if a = s.cfg.textBase then Mismatch.unexpectedReturn else Mismatch.desync
      let due : State := { u with exe := { u.exe with lastMismatch := some kind, phase := .restarting } }
      step s = .next
        (if inRestartWindow s.cfg s.exe.codeCount = false then raise kind.kind .fetchMismatch u
        else if s.cfg.restartLimit ≤ s.exe.restartCount then raise kind.kind .restartExhausted due
        else flushFrom 0 due)

/-- Step S3s: the three checks of a store cycle in their order, each failing with DESYNC after steps S1 and S2 (rule R176). -/
def Obligations.BadStoresFailInOrder : Prop :=
  ∀ (s : State) (c a : Word), AwaitsAddress s .cycle true c a →
    let u := cycleStart c a s
    (s.exe.storePending = 0 → step s = .next (raise .desync .unexpectedStore u)) ∧
    (s.exe.storePending ≠ 0 →
      (a.toNat < s.cfg.paramOutBase.toNat ∨ s.exe.maxStoreAddr.toNat < a.toNat) →
        step s = .next (raise .desync .storeRange u)) ∧
    (s.exe.storePending ≠ 0 → s.cfg.paramOutBase.toNat ≤ a.toNat → a.toNat ≤ s.exe.maxStoreAddr.toNat →
      a.toNat % 4 ≠ 0 → step s = .next (raise .desync .storeMisaligned u))

/-- Step S3s on a store that passes its checks: CAPTURE into the deferred slot, one store less pending, FINISH; and
with the pass seen and no store left, DRAIN follows. DRAIN's ExecQueued runs the queued CAPTURE, the deferred word
reaches OUT, and EXEC ends OK; a DRAIN with nothing deferred ends it OK with OUT as it was (rules R176, R185, R186). -/
def Obligations.AnAcceptedStoreIsDeferred : Prop :=
  (∀ (s : State) (c a : Word), AwaitsAddress s .cycle true c a → s.exe.phase ≠ .restarting →
    s.exe.storePending ≠ 0 → s.cfg.paramOutBase.toNat ≤ a.toNat → a.toNat ≤ s.exe.maxStoreAddr.toNat →
    a.toNat % 4 = 0 →
      let u := cycleStart c a s
      let h := s.port.nextHandle
      step s = .next
        { u with
          exe := { u.exe with pending := some { addr := a, handle := h }, storePending := s.exe.storePending - 1 }
          port :=
            { u.port with
              ir := s.cfg.ir.control
              queued := [.keep h, .discard]
              nextHandle := h + 1
              trace :=
                .scan32Q (finWord s.cfg) :: .setIR s.cfg.ir.control :: .scan32Q 0#32 :: .setIR s.cfg.ir.data :: u.port.trace }
          run :=
            { s.run with point := if s.exe.pass = true ∧ s.exe.storePending = 1 then .drain else .poll .cycle 0 } }) ∧
  (∀ (s : State) (d : Deferred) (v : Word) (words : List Word) (fails : List Bool),
    s.inbox = [] → s.run.point = .drain → s.run.ctx = some .execSync → s.exe.pending = some d →
    s.port.queued = [.keep d.handle, .discard] → s.input.fails = false :: fails → s.input.words = v :: words →
      step s = .next
        { s with
          ses := { s.ses with status := .ok }
          exe := { s.exe with phase := .idle, pending := none }
          out := s.out.write (outIndex s.cfg d.addr) v
          port :=
            { s.port with
              queued := []
              captured := (d.handle, v) :: s.port.captured
              trace := .execQueued :: s.port.trace }
          run := .reset
          input := { s.input with words := words, fails := fails } }) ∧
  (∀ (s : State) (fails : List Bool),
    s.inbox = [] → s.run.point = .drain → s.run.ctx = some .execSync → s.exe.pending = none →
    s.port.queued = [] → s.input.fails = false :: fails →
      step s = .next
        { s with
          ses := { s.ses with status := .ok }
          exe := { s.exe with phase := .idle }
          port := { s.port with trace := .execQueued :: s.port.trace }
          run := .reset
          input := { s.input with fails := fails } })

/-- Step S3f, a return to TEXT_BASE in the final check: with no store pending the command drains, the fetch left pending; with
stores pending the first return sets the pass and is fed NOP; a second return is UNEXPECTED_RETURN (rule R181). -/
def Obligations.ReturnsToTextInTheFinalCheck : Prop :=
  ∀ (s : State) (c : Word), AwaitsAddress s .cycle false c s.cfg.textBase → s.exe.phase = .finalCheck →
    let u := cycleStart c s.cfg.textBase s
    (s.exe.pass = true → step s = .next (raise .unexpectedReturn .secondReturn u)) ∧
    (s.exe.pass = false → s.exe.storePending = 0 → step s = .next { u with run := { s.run with point := .drain } }) ∧
    (s.exe.pass = false → s.exe.storePending ≠ 0 →
      step s = .next
        { u with
          exe := { u.exe with pass := true, codeCount := 1 }
          port := portFed s.cfg (laneOf s (nopFor s.ses.isa)) u.port
          run := { s.run with point := .poll .cycle 0 } })

/-- Step S3f, a fetch elsewhere in the final check: at an unexpected address it fails; at the expected one it is fed NOP up
to the padding limits (rules R182 to R184). -/
def Obligations.PaddingInTheFinalCheck : Prop :=
  ∀ (s : State) (c a : Word), AwaitsAddress s .cycle false c a → s.exe.phase = .finalCheck → a ≠ s.cfg.textBase →
    let u := cycleStart c a s
    let expected := s.cfg.textBase + BitVec.ofNat 32 (4 * s.exe.codeCount)
    (a ≠ expected → step s = .next (raise .desync .finalAddr u)) ∧
    (a = expected → s.exe.pass = false → s.cfg.preReturnPadLimit < s.exe.codeCount - s.run.prog.length →
      step s = .next (raise .desync .preReturnPad u)) ∧
    (a = expected → s.exe.pass = true → s.cfg.postReturnPadLimit < s.exe.codeCount →
      step s = .next (raise .desync .postReturnPad u)) ∧
    (a = expected → ¬ (s.exe.pass = true ∧ s.exe.storePending = 0) →
      (s.exe.pass = false → s.exe.codeCount - s.run.prog.length ≤ s.cfg.preReturnPadLimit) →
      (s.exe.pass = true → s.exe.codeCount ≤ s.cfg.postReturnPadLimit) →
        step s = .next
          { u with
            exe := { u.exe with codeCount := s.exe.codeCount + 1 }
            port := portFed s.cfg (laneOf s (nopFor s.ses.isa)) u.port
            run := { s.run with point := .poll .cycle 0 } })

/-- The control-word rows: a captured word without a pending access costs one poll, and the POLL_LIMIT-th fails with
R_NO_ACCESS; one with a pending access takes a cycle, or a round of FLUSH's extra loop, on to read the address, and is
fed by FLUSH and FEED_UNCHECKED whatever its direction; with no control scan outstanding nothing changes, the model's
choice of log entry 11. After FLUSH_SEQ the extra loop begins; a round of it that sees TEXT_BASE ends FLUSH, any other
is fed NOP, up to FLUSH_EXTRA_MAX rounds; and the end of FLUSH counts the restart and begins a new attempt (rules R85,
R143, R145, R152, R173, R177, R260). -/
def Obligations.CapturedControlWordsAreDispatched : Prop :=
  (∀ (s : State) (c : Word),
    (∀ w polls, s.run.point = .poll w polls → polls + 1 < s.cfg.pollLimit →
      exec (.ctrlNotPending c) s = .next { s with run := { s.run with point := .poll w (polls + 1) } }) ∧
    (∀ w polls, s.run.point = .poll w polls → s.cfg.pollLimit ≤ polls + 1 →
      exec (.ctrlNotPending c) s = .next (raise .desync .noAccess s)) ∧
    (∀ w polls, (w = .cycle ∨ ∃ j, w = .extra j) → s.run.point = .poll w polls →
      exec (.ctrlFetch c) s = .next { s with run := { s.run with point := .addr w false c } } ∧
      exec (.ctrlStore c) s = .next { s with run := { s.run with point := .addr w true c } }) ∧
    (∀ k polls, s.run.point = .poll (.feed k) polls →
      let t : State :=
        { s with
          port := portFed s.cfg (laneOf s (entryAt s.run.prog k).instr) s.port
          run :=
            { s.run with
              point := if k + 1 < s.run.prog.length then .poll (.feed (k + 1)) 0 else .feedEnd } }
      exec (.ctrlFetch c) s = .next t ∧ exec (.ctrlStore c) s = .next t) ∧
    (∀ i polls, s.run.point = .poll (.flush i) polls →
      let u : State := { s with port := portFed s.cfg (laneOf s (flushWord s.cfg s.ses.isa i)) s.port }
      let t : State :=
        if i + 1 < s.cfg.flushSeq.length then { u with run := { s.run with point := .poll (.flush (i + 1)) 0 } }
        else if 0 < s.cfg.flushExtraMax then { u with run := { s.run with point := .poll (.extra 0) 0 } }
        else newAttempt u
      exec (.ctrlFetch c) s = .next t ∧ exec (.ctrlStore c) s = .next t) ∧
    ((∀ w polls, s.run.point ≠ .poll w polls) →
      exec (.ctrlNotPending c) s = .next s ∧ exec (.ctrlFetch c) s = .next s ∧ exec (.ctrlStore c) s = .next s)) ∧
  ∀ (s : State) (j : Nat) (isStore : Bool) (c a : Word), AwaitsAddress s (.extra j) isStore c a →
    let u := observed c a s
    let v : State := { u with port := portFed s.cfg (laneOf s (nopFor s.ses.isa)) u.port }
    step s = .next
      (if a = s.cfg.textBase then newAttempt u
      else if j + 1 < s.cfg.flushExtraMax then { v with run := { s.run with point := .poll (.extra (j + 1)) 0 } }
      else newAttempt v)

/-- A failed scan ends the command with TRANSPORT at once: the deferred datum does not reach OUT, no recovery runs, and a
batched EXEC is downgraded (rules R141, R174, R293, R298). -/
def Obligations.TransportFailuresEndTheCommand : Prop :=
  ∀ s : State, s.inbox = [] → s.run.point ≠ .idle → s.input.fails.head? = some true →
    (s.run.ctx = some .execSync ∨ s.run.ctx = some .execBatched ∨ s.run.ctx = some .feed) →
      ∃ t, step s = .next t ∧ t.run = .reset ∧ t.exe.phase = .idle ∧ t.exe.pending = none ∧ t.log = [] ∧
        t.ses =
          { s.ses with
            status := .transport
            diag := diagnose .transport s
            mode := if s.run.ctx = some .execBatched then .sync else s.ses.mode } ∧
        t.out = s.out ∧ t.que = s.que ∧ t.target = s.target

/-! ## Whole runs -/

/-- EXEC in synchronous mode on a target whose accesses are those of the plan of its queue, followed by a fetch at
TEXT_BASE: it ends OK, every store is in OUT in order, and every word of the queue is fed in order, one exchange at a
time (rules R171, R180, R176, R186, R187; the answers laid down as log entry 5 has them). -/
def Obligations.SyncExecRunsAPlannedQueue : Prop :=
  ∀ (s : State) (accesses : List (Slot × Record)) (c : Word) (words : List Word) (fails : List Bool),
    Quiet s → s.que.error = false → s.ses.mode = .sync → s.que.entries ≠ [] → QueueInv s →
    (s.cfg.storeScanLag = .one → lastEntryPlain s.que.entries) →
    FollowsPlan s.cfg s.que.entries accesses → isFetch s.cfg c →
    s.input.words = accesses.flatMap accessWords ++ c :: s.cfg.textBase :: words →
    s.input.fails = List.replicate (2 * (accesses.length + 1) + 1) false ++ fails →
      ∃ t, exec .exec s = .next t ∧ Quiet t ∧ t.ses.status = .ok ∧
        t.out = s.out.writeAll (storesOf s.cfg accesses) ∧ t.ses.mode = .sync ∧ t.exe.restartCount = 0 ∧
        t.ses.lastCtrl = c ∧ t.ses.lastAddr = s.cfg.textBase ∧ t.input.words = words ∧ t.input.fails = fails ∧
        t.port.trace.reverse =
          s.port.trace.reverse ++
            accesses.flatMap (fun p => cycleOps s.cfg (slotLane s s.que.entries p.1)) ++ returnOps s.cfg

/-- EXEC in batched mode on records that its plan expects: it ends OK in batched mode, every staged store is in OUT in
order, and every slot is scanned before the one ExecQueued (rules R221, R223, R224, R229, R230; the answers laid down
as log entry 5 has them). -/
def Obligations.BatchedExecRunsAPlannedQueue : Prop :=
  ∀ (s : State) (accesses : List (Slot × Record)) (records : List Record) (fails : List Bool),
    Quiet s → s.que.error = false → s.ses.mode = .batched → s.que.entries ≠ [] →
    FollowsPlan s.cfg s.que.entries accesses →
    s.input.records = accesses.map Prod.snd ++ records → s.input.fails = false :: fails →
      ∃ t, exec .exec s = .next t ∧ Quiet t ∧ t.ses.status = .ok ∧ t.ses.mode = .batched ∧
        t.out = s.out.writeAll (storesOf s.cfg accesses) ∧ t.exe.codeCount = s.que.entries.length ∧
        t.input.records = records ∧
        t.port.trace.reverse =
          s.port.trace.reverse ++ [.setIR s.cfg.ir.all] ++
            accesses.flatMap (fun p => slotOps s.cfg (slotLane s s.que.entries p.1)) ++ [.execQueued]

/-- Batched/synchronous equivalence: where a batched EXEC ends OK on the records laid down, the synchronous EXEC of the same
queue from the same state, on a target that presents the same accesses, then extra fetches past the program within
PRE_RETURN_PAD_LIMIT, and then a fetch at TEXT_BASE, ends OK and leaves the same OUT (rule R233). -/
def Obligations.BatchedAndSyncLeaveTheSameOut : Prop :=
  ∀ (s t : State) (records : List Record) (c : Word) (pads : Nat),
    Quiet s → s.que.error = false → s.ses.mode = .batched → s.que.entries ≠ [] → QueueInv s →
    (s.cfg.storeScanLag = .one → lastEntryPlain s.que.entries) → isFetch s.cfg c →
    pads ≤ s.cfg.preReturnPadLimit + 1 → s.que.entries.length + pads ≤ 2 ^ 30 →
    s.input.records = records → records.length = (buildSlots s.cfg s.que.entries).length →
    exec .exec s = .next t → t.ses.status = .ok → t.ses.mode = .batched →
      let extra := (List.range pads).flatMap fun j => [c, textAddr s.cfg (s.que.entries.length + j)]
      let sync : State :=
        { s with
          ses := { s.ses with mode := .sync }
          input :=
            { s.input with
              words :=
                ((buildSlots s.cfg s.que.entries).zip records).flatMap accessWords ++ extra ++ [c, s.cfg.textBase]
              fails := List.replicate (2 * (records.length + pads + 1) + 1) false } }
      ∃ t', exec .exec sync = .next t' ∧ t'.ses.status = .ok ∧ t'.out = t.out

/-- The batched plan (rule R222), slot by slot: its FETCH slots are those of the entries, each once and in order; its
STORE slots are those of the flagged entries in order, without the last entry's under lag 1; each STORE slot k stands
right after the FETCH slot of entry k under lag 0, of entry k + 1 under lag 1; and its length is that of the slots so
counted. -/
def Obligations.ThePlanHasASlotForEachScan : Prop :=
  ∀ (cfg : Config) (prog : List Entry),
    let plan := buildSlots cfg prog
    let lag := match cfg.storeScanLag with | .zero => 0 | .one => 1
    (plan.filter (fun x => !x.isStore)).map Slot.k = List.range prog.length ∧
      (plan.filter (fun x => x.isStore)).map Slot.k =
        (List.range (prog.length - lag)).filter (fun k => (entryAt prog k).addr != 0#32) ∧
      (∀ i k, plan[i]? = some { isStore := true, k := k } →
        ∃ j, i = j + 1 ∧ plan[j]? = some { isStore := false, k := k + lag }) ∧
      plan.length = prog.length + countStores (prog.take (prog.length - lag))

/-- A target with no access pending: EXEC polls exactly POLL_LIMIT times and fails with DESYNC, R_NO_ACCESS; with no valid
snapshot its recovery runs nothing (rules R143, R294, R300). -/
def Obligations.ExecFailsWhereNoAccessComes : Prop :=
  ∀ (s : State) (controls words : List Word) (fails : List Bool), Quiet s → noSnapshot s →
    s.que.error = false → s.ses.mode = .sync → s.que.entries ≠ [] → controls.length = s.cfg.pollLimit →
    (∀ c ∈ controls, ¬ isPending s.cfg c) → s.input.words = controls ++ words →
    s.input.fails = List.replicate s.cfg.pollLimit false ++ fails →
      ∃ t, exec .exec s = .next t ∧ Quiet t ∧ t.ses.status = .desync ∧ t.ses.diag.reason = some .noAccess ∧
        t.ses.diag.phase = .executing ∧ t.out = s.out ∧ t.ses.scratchSuspect = s.ses.scratchSuspect ∧
        t.input.words = words ∧ t.input.fails = fails

/-- The restart bound: on a target whose every attempt fetches some entries and then mismatches, at any address
inside RESTART_WINDOW but for the resync's form in the first attempt, and with FLUSH between the attempts, EXEC
restarts exactly RESTART_LIMIT times and then fails with R_RESTART_EXHAUSTED and the kind of the last mismatch; no
register of the snapshot is valid, so no recovery follows (rules R173, R190, R191; the answers laid down as log
entry 5 has them). -/
def Obligations.RestartsAreBoundedByTheLimit : Prop :=
  ∀ (s : State) (c : Word) (attempts : List Attempt) (final : Attempt) (words : List Word) (fails : List Bool),
    let answers := (attempts.flatMap fun x => attemptWords s.cfg c x ++ flushAnswers s.cfg c x) ++ attemptWords s.cfg c final
    Quiet s → noSnapshot s → s.que.error = false → s.ses.mode = .sync → isFetch s.cfg c →
    attempts.length = s.cfg.restartLimit →
    (∀ x ∈ attempts ++ [final], x.fetched < s.que.entries.length ∧ inRestartWindow s.cfg x.fetched = true ∧
      x.stray ≠ textAddr s.cfg x.fetched) →
    (∀ x, (attempts ++ [final]).head? = some x → ¬ (x.fetched = 1 ∧ x.stray = s.cfg.textBase)) →
    s.input.words = answers ++ words → s.input.fails = List.replicate answers.length false ++ fails →
      ∃ t, exec .exec s = .next t ∧ Quiet t ∧
        t.ses.status = (if final.stray = s.cfg.textBase then .unexpectedReturn else .desync) ∧
        t.ses.diag.reason = some .restartExhausted ∧ t.ses.diag.phase = .restarting ∧
        t.ses.diag.restartCount = s.cfg.restartLimit ∧ t.ses.diag.codeCount = final.fetched ∧
        t.ses.diag.ctrl = c ∧ t.ses.diag.addr = final.stray ∧ t.out = s.out ∧
        t.input.words = words ∧ t.input.fails = fails

/-- Every command runs to its end: success, failure, or the bound on polls, padding and restarts, within the number of scan
answers of log entry 8 (rules R8, R266, R305). -/
def Obligations.EveryCommandRunsToItsEnd : Prop :=
  ∀ (s : State) (i : Instr), i.surface = .command → s.run.point = .idle →
    ∃ t, exec i s = .next t ∧ t.run.point = .idle

/-! ## Errors and recovery -/

/-- The result codes are those of rule R290, and the error exit (rule R298) of an EXEC: the diagnostic record is taken
first, LOG and E.pending are emptied, the mode is downgraded where the batched executor ran, and a protocol error with
a register to restore goes on with a synchronous run of the recovery program that will report the command's own kind;
otherwise the command ends with its kind. -/
def Obligations.TheErrorExitOfExec : Prop :=
  [Kind.ok, .transport, .desync, .unexpectedReturn, .resource, .illegal].map Kind.code = [0, 1, 2, 3, 4, 5] ∧
  ∀ (s : State) (batched : Bool) (k : Kind) (r : Reason),
    let ctx : Ctx := if batched then .execBatched else .execSync
    let prog := recoveryProgram s.ses.isa s.ses.snap 0 31
    let ses : Session := { s.ses with diag := diagnose r s, mode := if batched then .sync else s.ses.mode }
    errorExit (some ctx) k r s =
      if (k = .desync ∨ k = .unexpectedReturn) ∧ prog ≠ [] then
        { s with
          ses := ses
          log := []
          exe := { Executor.reset with phase := .executing }
          run := { ctx := some (.exitRecovery k), prog := prog, point := .poll .cycle 0 } }
      else
        { s with
          ses := { ses with status := k }
          log := []
          exe := { s.exe with phase := .idle, pending := none }
          run := .reset }

/-- The ends of a run of the recovery program: a failure sets S.scratch_suspect and neither nests nor replaces the
error of the command; a success over all of SCRATCH_SET clears it; RECOVER reports its own run's failure, with the
phase of log entry 26 in S.diag (rules R23, R263, R301, R302). -/
def Obligations.RecoveryRunsEndWithoutNesting : Prop :=
  ∀ (s : State),
    (∀ k₀ k r, s.run.ctx = some (.exitRecovery k₀) →
      raise k r s =
        { s with
          ses := { s.ses with scratchSuspect := true, status := k₀ }
          exe := { s.exe with phase := .idle }
          run := .reset } ∧
      succeed s =
        { s with
          ses := { s.ses with scratchSuspect := false, status := k₀ }
          exe := { s.exe with phase := .idle }
          run := .reset }) ∧
    (∀ first last k r, s.run.ctx = some (.recover first last) →
      raise k r s = failedWith k r { s with ses := { s.ses with scratchSuspect := true } } ∧
      succeed s =
        { s with
          ses :=
            { s.ses with
              scratchSuspect :=
                if first ≤ 8 ∧ 15 ≤ last then false else s.ses.scratchSuspect
              status := .ok }
          exe := { s.exe with phase := .idle }
          run := .reset })

/-- A batched EXEC that ends with an error leaves OUT as it was and the mode SYNC, whatever its recovery does. And on
records laid down of which the first to break its slot is the one given, it ends with that record's kind and reason,
whatever the records after it are; S.diag names that record, and so do S.last_ctrl and S.last_addr where no recovery
observes after it (rules R225 to R229, R231, R300; the answers laid down as log entry 5 has them). -/
def Obligations.AFailedBatchDowngradesAndWritesNoOut : Prop :=
  (∀ s t : State, Quiet s → s.que.error = false → s.que.entries ≠ [] → s.ses.mode = .batched → exec .exec s = .next t →
    t.ses.status ≠ .ok → t.ses.mode = .sync ∧ t.out = s.out) ∧
  ∀ (s : State) (before : List (Slot × Record)) (slot : Slot) (r : Record) (slots : List Slot) (more : List Record)
    (fails : List Bool) (k : Kind) (why : Reason),
    Quiet s → s.que.error = false → s.ses.mode = .batched →
    buildSlots s.cfg s.que.entries = before.map Prod.fst ++ slot :: slots →
    (∀ p ∈ before, SlotPasses s.cfg s.que.entries p.1 p.2) → SlotBreaks s.cfg s.que.entries slot r k why →
    slots.length ≤ more.length → s.input.records = before.map Prod.snd ++ r :: more → s.input.fails = false :: fails →
      ∃ t, exec .exec s = .next t ∧ t.ses.status = k ∧ t.ses.diag.reason = some why ∧ t.ses.diag.phase = .executing ∧
        t.ses.diag.ctrl = r.ctrl ∧ t.ses.diag.addr = r.addr ∧ t.ses.mode = .sync ∧ t.out = s.out ∧
        (noSnapshot s → t.ses.lastCtrl = r.ctrl ∧ t.ses.lastAddr = r.addr)

/-- EXEC stores nothing above the highest store address of its queue: on every target and with every outcome, each word of
OUT whose index lies above those of the flagged entries reads as before (rules R33, R176, R225, R229). -/
def Obligations.ExecStoresOnlyUpToItsHighestAddress : Prop :=
  ∀ (s t : State) (i : Nat), Quiet s → exec .exec s = .next t →
    (∀ e ∈ s.que.entries, e.addr ≠ 0#32 → outIndex s.cfg e.addr < i) → t.out.read i = s.out.read i

/-! ## Whole-machine rules -/

/-- The state footprint of the commands (rule R267): what each command never writes. And the result: S.status is OK
and S.diag as it was, or the command failed and S.status is a kind that rule R292 gives the reason in S.diag. -/
def Obligations.CommandsKeepTheirFootprint : Prop :=
  ∀ (s t : State) (i : Instr), i.surface = .command → Quiet s → exec i s = .next t →
    t.cfg = s.cfg ∧ t.inbox = s.inbox ∧ t.target = s.target ∧
    ((i = .qInit ∨ (∃ w a, i = .qAdd w a) ∨ (∃ r o v, i = .qAddLi r o v)) ∨ t.que = s.que) ∧
    ((∃ m, i = .setMode m) ∨ t.ses.mode = s.ses.mode ∨
      (i = .exec ∧ s.ses.mode = .batched ∧ t.ses.mode = .sync ∧ t.ses.status ≠ .ok)) ∧
    ((∃ r v, i = .setSnapshot r v) ∨ t.ses.snap = s.ses.snap) ∧
    ((i = .exec ∨ ∃ a b, i = .recover a b) ∨ t.ses.scratchSuspect = s.ses.scratchSuspect) ∧
    ((∃ x e, i = .setIsa x e) ∨ (t.ses.isa = s.ses.isa ∧ t.ses.endian = s.ses.endian)) ∧
    ((i = .exec ∧ (s.ses.mode = .sync ∨ t.ses.status = .ok)) ∨ t.out = s.out) ∧
    ((i = .exec ∨ i = .feedUnchecked ∨ ∃ a b, i = .recover a b) ∨ t.port = s.port) ∧
    ((t.ses.status = .ok ∧ t.ses.diag = s.ses.diag) ∨
      (t.ses.status ≠ .ok ∧ ∃ r, t.ses.diag.reason = some r ∧ t.ses.status ∈ r.kinds))

/-- No silent escalation: no instruction but SET_MODE, and no other step, leaves the mode BATCHED where it was not (rule
R232). -/
def Obligations.OnlySetModeEscalates : Prop :=
  (∀ (s t : State) (i : Instr), exec i s = .next t → t.ses.mode = .batched → s.ses.mode = .sync →
    i = .setMode .batched) ∧
  (∀ s t : State, s.run.point ≠ .idle → step s = .next t → t.ses.mode = .batched → s.ses.mode = .batched)

/-- The invariant of every step, from every state that meets it (rules R28, R33, R34, R37, R39, R40, R114; the bound on
E.restart_count is that of log entry 35, and OUT's form that of log entry 22). -/
def Obligations.EveryStepKeepsTheInvariant : Prop := ∀ s t : State, StepInv s → step s = .next t → StepInv t

/-- Q.store_count always equals the number of store-flagged entries, through every step (rules R28, R114). -/
def Obligations.StoreCountCountsFlaggedEntries : Prop :=
  (∀ cfg : Config, (State.resetWith cfg).que.storeCount = 0) ∧
  ∀ s t : State, s.que.storeCount = s.que.entries.countP (fun e => e.addr != 0#32) → step s = .next t →
    t.que.storeCount = t.que.entries.countP (fun e => e.addr != 0#32)

/-- No step writes the parameters (rule R20). -/
def Obligations.NoStepWritesTheParameters : Prop := ∀ s t : State, step s = .next t → t.cfg = s.cfg

/-! ## The words the target executes -/

/-- NOP, LUI and ORI: the register written, every other register as it was, $0 always 0 and a write to it without effect,
and the program counter one word on (rules R89 to R91, on the target view of log entries 12 and 13). -/
def Obligations.LoadWordsWriteTheirRegister : Prop :=
  (∀ s : State, ∃ t, exec .nop s = .next t ∧ t = { s with target := t.target } ∧
    (∀ r, readGpr t.target r = readGpr s.target r) ∧ t.target.pc = s.target.npc ∧
    t.target.npc = s.target.npc + 4#32) ∧
  (∀ (s : State) (rt : RegNum) (imm : BitVec 16), ∃ t, exec (.lui rt imm) s = .next t ∧
    t = { s with target := t.target } ∧
    (∀ r, readGpr t.target r = if r = rt ∧ rt ≠ 0 then imm ++ 0#16 else readGpr s.target r) ∧
    readGpr t.target 0 = 0#32 ∧ t.target.pc = s.target.npc ∧ t.target.npc = s.target.npc + 4#32) ∧
  (∀ (s : State) (rt rs : RegNum) (imm : BitVec 16), ∃ t, exec (.ori rt rs imm) s = .next t ∧
    t = { s with target := t.target } ∧
    (∀ r, readGpr t.target r =
      if r = rt ∧ rt ≠ 0 then readGpr s.target rs ||| imm.zeroExtend 32 else readGpr s.target r) ∧
    readGpr t.target 0 = 0#32 ∧ t.target.pc = s.target.npc ∧ t.target.npc = s.target.npc + 4#32)

/-- J and B: after the delay slot the target is where rules R92 and R93 say, and no register changes (the target view of log
entries 12 and 13). -/
def Obligations.BranchesGoWhereTheirFieldSays : Prop :=
  (∀ (s : State) (index : BitVec 26),
    exec (.j index) s =
      .next
        { s with
          target :=
            { s.target with
              pc := s.target.npc
              npc := (s.target.pc + 4#32) &&& 0xF0000000#32 ||| (index.zeroExtend 32 <<< 2) } }) ∧
  (∀ (s : State) (off : BitVec 16),
    exec (.b off) s =
      .next
        { s with
          target :=
            { s.target with
              pc := s.target.npc
              npc := BitVec.ofInt 32 (s.target.pc.toNat + 4 + 4 * off.toInt) } })

/-- The words of rules R89 to R93 are the numbers those rules give, and a branch at index k of a program at TEXT_BASE with
off = -(k + 1) goes back to TEXT_BASE. -/
def Obligations.EmittedWordsHaveTheirNumbers : Prop :=
  nopWord = 0#32 ∧
  (∀ (rt : RegNum) (imm : BitVec 16),
    luiWord rt imm = 0x3C000000#32 ||| (rt.zeroExtend 32 <<< 16) ||| imm.zeroExtend 32) ∧
  (∀ (rt rs : RegNum) (imm : BitVec 16),
    oriWord rt rs imm =
      0x34000000#32 ||| (rs.zeroExtend 32 <<< 21) ||| (rt.zeroExtend 32 <<< 16) ||| imm.zeroExtend 32) ∧
  (∀ target : Word, jTo target = 0x08000000#32 ||| ((target &&& 0x0FFFFFFF#32) >>> 2)) ∧
  (∀ off : BitVec 16, bWord off = 0x10000000#32 ||| off.zeroExtend 32) ∧
  (∀ (cfg : Config) (k : Nat), k < 32768 →
    branchTarget (textAddr cfg k) (-(BitVec.ofNat 16 (k + 1))) = cfg.textBase)

/-- What the target cannot be made to execute: with MIPS32 in force a word that is none of the five is refused, and under
MICROMIPS every word is (rules R94, R97; log entry 15). -/
def Obligations.OtherTargetWordsAreRefused : Prop :=
  ∀ (s : State) (w : Word) (rest : List Msg), s.inbox = .targetExec w :: rest →
    (s.ses.isa = .microMips → step s = .refused (.targetMicroMipsOpen w)) ∧
    (s.ses.isa = .mips32 → decode .word [w] = .error .notAnEmittedWord → step s = .refused (.targetWordUnspecified w))
end

