-- ==== Sys2Proof/Laws/State.lean ====
section
/-! SUPPORT. One lemma for each field of the state after each named update of it. -/

namespace Sys2Proof.Machine

variable (s : State)

@[simp] theorem State.withSes_cfg (x : Session) : (s.withSes x).cfg = s.cfg := rfl
@[simp] theorem State.withSes_ses (x : Session) : (s.withSes x).ses = x := rfl
@[simp] theorem State.withSes_que (x : Session) : (s.withSes x).que = s.que := rfl
@[simp] theorem State.withSes_exe (x : Session) : (s.withSes x).exe = s.exe := rfl
@[simp] theorem State.withSes_out (x : Session) : (s.withSes x).out = s.out := rfl
@[simp] theorem State.withSes_log (x : Session) : (s.withSes x).log = s.log := rfl
@[simp] theorem State.withSes_port (x : Session) : (s.withSes x).port = s.port := rfl
@[simp] theorem State.withSes_run (x : Session) : (s.withSes x).run = s.run := rfl
@[simp] theorem State.withSes_input (x : Session) : (s.withSes x).input = s.input := rfl
@[simp] theorem State.withSes_inbox (x : Session) : (s.withSes x).inbox = s.inbox := rfl
@[simp] theorem State.withSes_target (x : Session) : (s.withSes x).target = s.target := rfl

@[simp] theorem State.withQue_cfg (x : Queue) : (s.withQue x).cfg = s.cfg := rfl
@[simp] theorem State.withQue_ses (x : Queue) : (s.withQue x).ses = s.ses := rfl
@[simp] theorem State.withQue_que (x : Queue) : (s.withQue x).que = x := rfl
@[simp] theorem State.withQue_exe (x : Queue) : (s.withQue x).exe = s.exe := rfl
@[simp] theorem State.withQue_out (x : Queue) : (s.withQue x).out = s.out := rfl
@[simp] theorem State.withQue_log (x : Queue) : (s.withQue x).log = s.log := rfl
@[simp] theorem State.withQue_port (x : Queue) : (s.withQue x).port = s.port := rfl
@[simp] theorem State.withQue_run (x : Queue) : (s.withQue x).run = s.run := rfl
@[simp] theorem State.withQue_input (x : Queue) : (s.withQue x).input = s.input := rfl
@[simp] theorem State.withQue_inbox (x : Queue) : (s.withQue x).inbox = s.inbox := rfl
@[simp] theorem State.withQue_target (x : Queue) : (s.withQue x).target = s.target := rfl

@[simp] theorem State.withExe_cfg (x : Executor) : (s.withExe x).cfg = s.cfg := rfl
@[simp] theorem State.withExe_ses (x : Executor) : (s.withExe x).ses = s.ses := rfl
@[simp] theorem State.withExe_que (x : Executor) : (s.withExe x).que = s.que := rfl
@[simp] theorem State.withExe_exe (x : Executor) : (s.withExe x).exe = x := rfl
@[simp] theorem State.withExe_out (x : Executor) : (s.withExe x).out = s.out := rfl
@[simp] theorem State.withExe_log (x : Executor) : (s.withExe x).log = s.log := rfl
@[simp] theorem State.withExe_port (x : Executor) : (s.withExe x).port = s.port := rfl
@[simp] theorem State.withExe_run (x : Executor) : (s.withExe x).run = s.run := rfl
@[simp] theorem State.withExe_input (x : Executor) : (s.withExe x).input = s.input := rfl
@[simp] theorem State.withExe_inbox (x : Executor) : (s.withExe x).inbox = s.inbox := rfl
@[simp] theorem State.withExe_target (x : Executor) : (s.withExe x).target = s.target := rfl

@[simp] theorem State.withOut_cfg (x : Memory) : (s.withOut x).cfg = s.cfg := rfl
@[simp] theorem State.withOut_ses (x : Memory) : (s.withOut x).ses = s.ses := rfl
@[simp] theorem State.withOut_que (x : Memory) : (s.withOut x).que = s.que := rfl
@[simp] theorem State.withOut_exe (x : Memory) : (s.withOut x).exe = s.exe := rfl
@[simp] theorem State.withOut_out (x : Memory) : (s.withOut x).out = x := rfl
@[simp] theorem State.withOut_log (x : Memory) : (s.withOut x).log = s.log := rfl
@[simp] theorem State.withOut_port (x : Memory) : (s.withOut x).port = s.port := rfl
@[simp] theorem State.withOut_run (x : Memory) : (s.withOut x).run = s.run := rfl
@[simp] theorem State.withOut_input (x : Memory) : (s.withOut x).input = s.input := rfl
@[simp] theorem State.withOut_inbox (x : Memory) : (s.withOut x).inbox = s.inbox := rfl
@[simp] theorem State.withOut_target (x : Memory) : (s.withOut x).target = s.target := rfl

@[simp] theorem State.withLog_cfg (x : List Record) : (s.withLog x).cfg = s.cfg := rfl
@[simp] theorem State.withLog_ses (x : List Record) : (s.withLog x).ses = s.ses := rfl
@[simp] theorem State.withLog_que (x : List Record) : (s.withLog x).que = s.que := rfl
@[simp] theorem State.withLog_exe (x : List Record) : (s.withLog x).exe = s.exe := rfl
@[simp] theorem State.withLog_out (x : List Record) : (s.withLog x).out = s.out := rfl
@[simp] theorem State.withLog_log (x : List Record) : (s.withLog x).log = x := rfl
@[simp] theorem State.withLog_port (x : List Record) : (s.withLog x).port = s.port := rfl
@[simp] theorem State.withLog_run (x : List Record) : (s.withLog x).run = s.run := rfl
@[simp] theorem State.withLog_input (x : List Record) : (s.withLog x).input = s.input := rfl
@[simp] theorem State.withLog_inbox (x : List Record) : (s.withLog x).inbox = s.inbox := rfl
@[simp] theorem State.withLog_target (x : List Record) : (s.withLog x).target = s.target := rfl

@[simp] theorem State.withPort_cfg (x : Port) : (s.withPort x).cfg = s.cfg := rfl
@[simp] theorem State.withPort_ses (x : Port) : (s.withPort x).ses = s.ses := rfl
@[simp] theorem State.withPort_que (x : Port) : (s.withPort x).que = s.que := rfl
@[simp] theorem State.withPort_exe (x : Port) : (s.withPort x).exe = s.exe := rfl
@[simp] theorem State.withPort_out (x : Port) : (s.withPort x).out = s.out := rfl
@[simp] theorem State.withPort_log (x : Port) : (s.withPort x).log = s.log := rfl
@[simp] theorem State.withPort_port (x : Port) : (s.withPort x).port = x := rfl
@[simp] theorem State.withPort_run (x : Port) : (s.withPort x).run = s.run := rfl
@[simp] theorem State.withPort_input (x : Port) : (s.withPort x).input = s.input := rfl
@[simp] theorem State.withPort_inbox (x : Port) : (s.withPort x).inbox = s.inbox := rfl
@[simp] theorem State.withPort_target (x : Port) : (s.withPort x).target = s.target := rfl

@[simp] theorem State.withRun_cfg (x : Run) : (s.withRun x).cfg = s.cfg := rfl
@[simp] theorem State.withRun_ses (x : Run) : (s.withRun x).ses = s.ses := rfl
@[simp] theorem State.withRun_que (x : Run) : (s.withRun x).que = s.que := rfl
@[simp] theorem State.withRun_exe (x : Run) : (s.withRun x).exe = s.exe := rfl
@[simp] theorem State.withRun_out (x : Run) : (s.withRun x).out = s.out := rfl
@[simp] theorem State.withRun_log (x : Run) : (s.withRun x).log = s.log := rfl
@[simp] theorem State.withRun_port (x : Run) : (s.withRun x).port = s.port := rfl
@[simp] theorem State.withRun_run (x : Run) : (s.withRun x).run = x := rfl
@[simp] theorem State.withRun_input (x : Run) : (s.withRun x).input = s.input := rfl
@[simp] theorem State.withRun_inbox (x : Run) : (s.withRun x).inbox = s.inbox := rfl
@[simp] theorem State.withRun_target (x : Run) : (s.withRun x).target = s.target := rfl

@[simp] theorem State.withInput_cfg (x : Input) : (s.withInput x).cfg = s.cfg := rfl
@[simp] theorem State.withInput_ses (x : Input) : (s.withInput x).ses = s.ses := rfl
@[simp] theorem State.withInput_que (x : Input) : (s.withInput x).que = s.que := rfl
@[simp] theorem State.withInput_exe (x : Input) : (s.withInput x).exe = s.exe := rfl
@[simp] theorem State.withInput_out (x : Input) : (s.withInput x).out = s.out := rfl
@[simp] theorem State.withInput_log (x : Input) : (s.withInput x).log = s.log := rfl
@[simp] theorem State.withInput_port (x : Input) : (s.withInput x).port = s.port := rfl
@[simp] theorem State.withInput_run (x : Input) : (s.withInput x).run = s.run := rfl
@[simp] theorem State.withInput_input (x : Input) : (s.withInput x).input = x := rfl
@[simp] theorem State.withInput_inbox (x : Input) : (s.withInput x).inbox = s.inbox := rfl
@[simp] theorem State.withInput_target (x : Input) : (s.withInput x).target = s.target := rfl

@[simp] theorem State.withInbox_cfg (x : List Msg) : (s.withInbox x).cfg = s.cfg := rfl
@[simp] theorem State.withInbox_ses (x : List Msg) : (s.withInbox x).ses = s.ses := rfl
@[simp] theorem State.withInbox_que (x : List Msg) : (s.withInbox x).que = s.que := rfl
@[simp] theorem State.withInbox_exe (x : List Msg) : (s.withInbox x).exe = s.exe := rfl
@[simp] theorem State.withInbox_out (x : List Msg) : (s.withInbox x).out = s.out := rfl
@[simp] theorem State.withInbox_log (x : List Msg) : (s.withInbox x).log = s.log := rfl
@[simp] theorem State.withInbox_port (x : List Msg) : (s.withInbox x).port = s.port := rfl
@[simp] theorem State.withInbox_run (x : List Msg) : (s.withInbox x).run = s.run := rfl
@[simp] theorem State.withInbox_input (x : List Msg) : (s.withInbox x).input = s.input := rfl
@[simp] theorem State.withInbox_inbox (x : List Msg) : (s.withInbox x).inbox = x := rfl
@[simp] theorem State.withInbox_target (x : List Msg) : (s.withInbox x).target = s.target := rfl

@[simp] theorem State.withTarget_cfg (x : Target) : (s.withTarget x).cfg = s.cfg := rfl
@[simp] theorem State.withTarget_ses (x : Target) : (s.withTarget x).ses = s.ses := rfl
@[simp] theorem State.withTarget_que (x : Target) : (s.withTarget x).que = s.que := rfl
@[simp] theorem State.withTarget_exe (x : Target) : (s.withTarget x).exe = s.exe := rfl
@[simp] theorem State.withTarget_out (x : Target) : (s.withTarget x).out = s.out := rfl
@[simp] theorem State.withTarget_log (x : Target) : (s.withTarget x).log = s.log := rfl
@[simp] theorem State.withTarget_port (x : Target) : (s.withTarget x).port = s.port := rfl
@[simp] theorem State.withTarget_run (x : Target) : (s.withTarget x).run = s.run := rfl
@[simp] theorem State.withTarget_input (x : Target) : (s.withTarget x).input = s.input := rfl
@[simp] theorem State.withTarget_inbox (x : Target) : (s.withTarget x).inbox = s.inbox := rfl
@[simp] theorem State.withTarget_target (x : Target) : (s.withTarget x).target = x := rfl

@[simp] theorem State.withPhase_cfg (p : Phase) : (s.withPhase p).cfg = s.cfg := rfl
@[simp] theorem State.withPhase_ses (p : Phase) : (s.withPhase p).ses = s.ses := rfl
@[simp] theorem State.withPhase_que (p : Phase) : (s.withPhase p).que = s.que := rfl
@[simp] theorem State.withPhase_exe (p : Phase) : (s.withPhase p).exe = { s.exe with phase := p } := rfl
@[simp] theorem State.withPhase_out (p : Phase) : (s.withPhase p).out = s.out := rfl
@[simp] theorem State.withPhase_log (p : Phase) : (s.withPhase p).log = s.log := rfl
@[simp] theorem State.withPhase_port (p : Phase) : (s.withPhase p).port = s.port := rfl
@[simp] theorem State.withPhase_run (p : Phase) : (s.withPhase p).run = s.run := rfl
@[simp] theorem State.withPhase_input (p : Phase) : (s.withPhase p).input = s.input := rfl
@[simp] theorem State.withPhase_inbox (p : Phase) : (s.withPhase p).inbox = s.inbox := rfl
@[simp] theorem State.withPhase_target (p : Phase) : (s.withPhase p).target = s.target := rfl

@[simp] theorem State.withStatus_cfg (k : Kind) : (s.withStatus k).cfg = s.cfg := rfl
@[simp] theorem State.withStatus_ses (k : Kind) : (s.withStatus k).ses = { s.ses with status := k } := rfl
@[simp] theorem State.withStatus_que (k : Kind) : (s.withStatus k).que = s.que := rfl
@[simp] theorem State.withStatus_exe (k : Kind) : (s.withStatus k).exe = s.exe := rfl
@[simp] theorem State.withStatus_out (k : Kind) : (s.withStatus k).out = s.out := rfl
@[simp] theorem State.withStatus_log (k : Kind) : (s.withStatus k).log = s.log := rfl
@[simp] theorem State.withStatus_port (k : Kind) : (s.withStatus k).port = s.port := rfl
@[simp] theorem State.withStatus_run (k : Kind) : (s.withStatus k).run = s.run := rfl
@[simp] theorem State.withStatus_input (k : Kind) : (s.withStatus k).input = s.input := rfl
@[simp] theorem State.withStatus_inbox (k : Kind) : (s.withStatus k).inbox = s.inbox := rfl
@[simp] theorem State.withStatus_target (k : Kind) : (s.withStatus k).target = s.target := rfl

@[simp] theorem State.waitAt_cfg (p : Point) : (s.waitAt p).cfg = s.cfg := rfl
@[simp] theorem State.waitAt_ses (p : Point) : (s.waitAt p).ses = s.ses := rfl
@[simp] theorem State.waitAt_que (p : Point) : (s.waitAt p).que = s.que := rfl
@[simp] theorem State.waitAt_exe (p : Point) : (s.waitAt p).exe = s.exe := rfl
@[simp] theorem State.waitAt_out (p : Point) : (s.waitAt p).out = s.out := rfl
@[simp] theorem State.waitAt_log (p : Point) : (s.waitAt p).log = s.log := rfl
@[simp] theorem State.waitAt_port (p : Point) : (s.waitAt p).port = s.port := rfl
@[simp] theorem State.waitAt_run (p : Point) : (s.waitAt p).run = { s.run with point := p } := rfl
@[simp] theorem State.waitAt_input (p : Point) : (s.waitAt p).input = s.input := rfl
@[simp] theorem State.waitAt_inbox (p : Point) : (s.waitAt p).inbox = s.inbox := rfl
@[simp] theorem State.waitAt_target (p : Point) : (s.waitAt p).target = s.target := rfl

end Sys2Proof.Machine
end

