-- ==== Sys2Proof/Laws/Memory.lean ====
section
/-! SUPPORT. The laws of OUT: every write keeps the canonical form, a read after a write gives the word written, every other
index is left alone, and canonical memories that read alike are equal. -/

namespace Sys2Proof.Machine

/-- What may be listed for a word: the word at its index, and never one that an unlisted index holds. -/
theorem Memory.mem_cell {i : Nat} {v : Word} {c : Nat × Word} (h : c ∈ Memory.cell i v) :
    c = (i, v) ∧ v ≠ Memory.unlisted := by
  unfold Memory.cell at h
  split at h
  · cases h
  · exact ⟨List.mem_singleton.1 h, ‹_›⟩

/-- The indices of a written memory are those it had and the one written. -/
theorem Memory.mem_write {m : Memory} {i : Nat} {v : Word} {c : Nat × Word} (h : c ∈ m.write i v) :
    (c = (i, v) ∧ v ≠ Memory.unlisted) ∨ c ∈ m := by
  induction m with
  | nil => exact .inl (Memory.mem_cell h)
  | cons d rest ih =>
    obtain ⟨j, w⟩ := d
    simp only [Memory.write] at h
    split at h
    · exact (List.mem_append.1 h).imp_left Memory.mem_cell
    · split at h
      · exact (List.mem_append.1 h).imp Memory.mem_cell (List.mem_cons_of_mem _)
      · rcases List.mem_cons.1 h with h | h
        · exact .inr (h ▸ List.mem_cons_self ..)
        · exact (ih h).imp_right (List.mem_cons_of_mem _)

/-- A cell before a memory whose indices are all above it keeps them rising. -/
theorem Memory.rising_cell {m : Memory} {i : Nat} (h : m.Pairwise (fun a b => a.1 < b.1)) (above : ∀ c ∈ m, i < c.1)
    (v : Word) : (Memory.cell i v ++ m).Pairwise (fun a b => a.1 < b.1) := by
  unfold Memory.cell
  split
  · exact h
  · exact List.pairwise_cons.2 ⟨above, h⟩

/-- A write keeps the canonical form. -/
theorem Memory.wf_write {m : Memory} (h : m.wf) (i : Nat) (v : Word) : (m.write i v).wf := by
  refine ⟨?_, fun c hc => ?_⟩
  · have hm := h.1
    clear h
    induction m with
    | nil => simpa [Memory.write] using Memory.rising_cell (m := []) (i := i) List.Pairwise.nil (by simp) v
    | cons d rest ih =>
      obtain ⟨j, w⟩ := d
      obtain ⟨hd, hr⟩ := List.pairwise_cons.1 hm
      simp only [Memory.write]
      split
      · rename_i lt
        refine Memory.rising_cell hm (fun c hc => ?_) v
        rcases List.mem_cons.1 hc with rfl | hc
        · exact lt
        · exact lt.trans (hd c hc)
      · split
        · rename_i eq
          exact Memory.rising_cell hr (fun c hc => eq ▸ hd c hc) v
        · refine List.pairwise_cons.2 ⟨fun c hc => ?_, ih hr⟩
          rcases Memory.mem_write hc with ⟨rfl, -⟩ | hc
          · simp only; omega
          · exact hd c hc
  · rcases Memory.mem_write hc with ⟨rfl, hv⟩ | hc
    · exact hv
    · exact h.2 c hc

/-- Writes in order keep the canonical form. -/
theorem Memory.wf_writeAll {m : Memory} (h : m.wf) (stage : List (Nat × Word)) : (m.writeAll stage).wf := by
  induction stage generalizing m with
  | nil => exact h
  | cons c cs ih => exact ih (Memory.wf_write h c.1 c.2)

/-- An index below all that are listed is not listed. -/
theorem Memory.read_below {m : Memory} {i : Nat} (h : ∀ c ∈ m, i < c.1) : m.read i = Memory.unlisted := by
  have : m.lookup i = none := by
    rw [List.lookup_eq_none_iff]
    intro c hc
    simpa using (h c hc).ne
  rw [Memory.read, this]
  rfl

/-- Reading just after a cell, at another index. -/
theorem Memory.read_cell_other (m : Memory) {i k : Nat} (v : Word) (h : k ≠ i) :
    Memory.read (Memory.cell i v ++ m) k = m.read k := by
  have : (k == i) = false := by simpa using h
  unfold Memory.cell
  split
  · rfl
  · simp [Memory.read, List.lookup, this]

/-- Reading a cell before a memory whose indices are all above it. -/
theorem Memory.read_cell_same {m : Memory} {i : Nat} (above : ∀ c ∈ m, i < c.1) (v : Word) :
    Memory.read (Memory.cell i v ++ m) i = v := by
  unfold Memory.cell
  split
  · rename_i e
    rw [e]
    exact Memory.read_below above
  · simp [Memory.read]

/-- Reading a memory at an index other than its first. -/
theorem Memory.read_cons_other (m : Memory) {j k : Nat} (w : Word) (h : k ≠ j) :
    Memory.read ((j, w) :: m) k = m.read k := by
  have : (k == j) = false := by simpa using h
  simp [Memory.read, List.lookup, this]

/-- A read after a write to the same index gives the word written. -/
theorem Memory.read_write_same {m : Memory} (h : m.wf) (i : Nat) (v : Word) : (m.write i v).read i = v := by
  have hm := h.1
  clear h
  induction m with
  | nil => simpa [Memory.write] using Memory.read_cell_same (m := []) (i := i) (by simp) v
  | cons d rest ih =>
    obtain ⟨j, w⟩ := d
    obtain ⟨hd, hr⟩ := List.pairwise_cons.1 hm
    simp only [Memory.write]
    split
    · rename_i lt
      refine Memory.read_cell_same (fun c hc => ?_) v
      rcases List.mem_cons.1 hc with rfl | hc
      · exact lt
      · exact lt.trans (hd c hc)
    · split
      · rename_i eq
        exact Memory.read_cell_same (fun c hc => eq ▸ hd c hc) v
      · rename_i ne
        rw [Memory.read_cons_other _ _ ne]
        exact ih hr

/-- A write leaves every other index alone. -/
theorem Memory.read_write_other (m : Memory) {i k : Nat} (v : Word) (h : k ≠ i) : (m.write i v).read k = m.read k := by
  induction m with
  | nil => simpa [Memory.write] using Memory.read_cell_other [] v h
  | cons d rest ih =>
    obtain ⟨j, w⟩ := d
    simp only [Memory.write]
    split
    · exact Memory.read_cell_other _ v h
    · split
      · rename_i eq
        subst eq
        rw [Memory.read_cell_other _ v h, Memory.read_cons_other _ w h]
      · by_cases hj : k = j
        · subst hj; simp [Memory.read, List.lookup]
        · rw [Memory.read_cons_other _ w hj, Memory.read_cons_other _ w hj, ih]

/-- Canonical memories that read alike at every index are the same data. -/
theorem Memory.eq_of_read_eq {m n : Memory} (hm : m.wf) (hn : n.wf) (h : ∀ i, m.read i = n.read i) : m = n := by
  induction m generalizing n with
  | nil =>
    cases n with
    | nil => rfl
    | cons c n =>
      refine absurd (Eq.trans ?_ (h c.1).symm) (hn.2 c List.mem_cons_self)
      simp [Memory.read, List.lookup]
  | cons c m ih =>
    obtain ⟨hc, hmr⟩ := List.pairwise_cons.1 hm.1
    have rc : Memory.read (c :: m) c.1 = c.2 := by simp [Memory.read, List.lookup]
    cases n with
    | nil => exact absurd (rc.symm.trans (h c.1)) (hm.2 c List.mem_cons_self)
    | cons d n =>
      obtain ⟨hd, hnr⟩ := List.pairwise_cons.1 hn.1
      have rd : Memory.read (d :: n) d.1 = d.2 := by simp [Memory.read, List.lookup]
      have hi : c.1 = d.1 := by
        rcases Nat.lt_trichotomy c.1 d.1 with lt | eq | gt
        · refine absurd (rc.symm.trans ((h c.1).trans (Memory.read_below fun e he => ?_))) (hm.2 c List.mem_cons_self)
          rcases List.mem_cons.1 he with rfl | he
          · exact lt
          · exact lt.trans (hd e he)
        · exact eq
        · refine absurd (rd.symm.trans ((h d.1).symm.trans (Memory.read_below fun e he => ?_)))
            (hn.2 d List.mem_cons_self)
          rcases List.mem_cons.1 he with rfl | he
          · exact gt
          · exact gt.trans (hc e he)
      have hv : c.2 = d.2 := by rw [← rc, h c.1, hi, rd]
      have hcd : c = d := Prod.ext hi hv
      subst hcd
      congr 1
      refine ih ⟨hmr, fun e he => hm.2 e (List.mem_cons_of_mem _ he)⟩
        ⟨hnr, fun e he => hn.2 e (List.mem_cons_of_mem _ he)⟩ fun i => ?_
      by_cases hic : i = c.1
      · rw [hic, Memory.read_below hc, Memory.read_below hd]
      · rw [← Memory.read_cons_other m c.2 hic, ← Memory.read_cons_other n c.2 hic]
        exact h i

/-- The memory of `State.reset` is canonical. -/
theorem State.reset_out_wf : State.reset.out.wf := ⟨List.Pairwise.nil, fun _ h => by cases h⟩

end Sys2Proof.Machine
end

