-- ==== Sys2Proof/Laws/Port.lean ====
section
/-! SUPPORT. What the scan port and the draws can change: the port and the inputs, and nothing else. -/

namespace Sys2Proof.Machine

/-- `t` differs from `s` in the scan port and the inputs at most. -/
structure PortOnly (s t : State) : Prop where
  cfg : t.cfg = s.cfg
  ses : t.ses = s.ses
  que : t.que = s.que
  exe : t.exe = s.exe
  out : t.out = s.out
  log : t.log = s.log
  run : t.run = s.run
  inbox : t.inbox = s.inbox
  target : t.target = s.target

theorem PortOnly.refl (s : State) : PortOnly s s := ⟨rfl, rfl, rfl, rfl, rfl, rfl, rfl, rfl, rfl⟩

theorem PortOnly.trans {s t u : State} (h : PortOnly s t) (k : PortOnly t u) : PortOnly s u :=
  ⟨k.cfg.trans h.cfg, k.ses.trans h.ses, k.que.trans h.que, k.exe.trans h.exe, k.out.trans h.out, k.log.trans h.log,
    k.run.trans h.run, k.inbox.trans h.inbox, k.target.trans h.target⟩

theorem portOnly_withPort (s : State) (p : Port) : PortOnly s (s.withPort p) :=
  ⟨rfl, rfl, rfl, rfl, rfl, rfl, rfl, rfl, rfl⟩

theorem portOnly_withInput (s : State) (x : Input) : PortOnly s (s.withInput x) :=
  ⟨rfl, rfl, rfl, rfl, rfl, rfl, rfl, rfl, rfl⟩

/-! ## Draws -/

theorem drawWord_cons {s : State} {w : Word} {ws : List Word} (h : s.input.words = w :: ws) :
    drawWord s = (w, s.withInput { s.input with words := ws }) := by
  unfold drawWord; rw [h]

theorem drawFail_cons {s : State} {f : Bool} {fs : List Bool} (h : s.input.fails = f :: fs) :
    drawFail s = (f, s.withInput { s.input with fails := fs }) := by
  unfold drawFail; rw [h]

theorem drawAlloc_cons {s : State} {f : Bool} {fs : List Bool} (h : s.input.allocs = f :: fs) :
    drawAlloc s = (f, s.withInput { s.input with allocs := fs }) := by
  unfold drawAlloc; rw [h]

theorem drawRecord_cons {s : State} {r : Record} {rs : List Record} (h : s.input.records = r :: rs) :
    drawRecord s = (r, s.withInput { s.input with records := rs }) := by
  unfold drawRecord; rw [h]

theorem portOnly_drawWord (s : State) : PortOnly s (drawWord s).2 := by
  unfold drawWord; split <;> exact portOnly_withInput _ _

theorem portOnly_drawRecord (s : State) : PortOnly s (drawRecord s).2 := by
  unfold drawRecord; split <;> exact portOnly_withInput _ _

theorem portOnly_drawFail (s : State) : PortOnly s (drawFail s).2 := by
  unfold drawFail; split <;> exact portOnly_withInput _ _

theorem portOnly_drawAlloc (s : State) : PortOnly s (drawAlloc s).2 := by
  unfold drawAlloc; split <;> exact portOnly_withInput _ _

/-- A draw leaves the port alone. -/
@[simp] theorem drawFail_port (s : State) : (drawFail s).2.port = s.port := by
  unfold drawFail; split <;> rfl
@[simp] theorem drawWord_port (s : State) : (drawWord s).2.port = s.port := by
  unfold drawWord; split <;> rfl
@[simp] theorem drawRecord_port (s : State) : (drawRecord s).2.port = s.port := by
  unfold drawRecord; split <;> rfl
@[simp] theorem drawAlloc_port (s : State) : (drawAlloc s).2.port = s.port := by
  unfold drawAlloc; split <;> rfl

/-! ## Primitives -/

theorem portOnly_emit (op : PortOp) (s : State) : PortOnly s (emit op s) := portOnly_withPort _ _
theorem portOnly_setIR (code : Nat) (s : State) : PortOnly s (setIR code s) := portOnly_withPort _ _
theorem portOnly_scan32Q (v : Word) (s : State) : PortOnly s (scan32Q v s) := portOnly_withPort _ _
theorem portOnly_scan32QKeep (v : Word) (s : State) : PortOnly s (scan32QKeep v s) := portOnly_withPort _ _
theorem portOnly_scan96Q (r : Record) (s : State) : PortOnly s (scan96Q r s) := portOnly_withPort _ _
theorem portOnly_feed (w : Word) (s : State) : PortOnly s (feed w s) := (portOnly_setIR _ _).trans (portOnly_scan32Q _ _)
theorem portOnly_finish (s : State) : PortOnly s (finish s) := (portOnly_setIR _ _).trans (portOnly_scan32Q _ _)
theorem portOnly_capture (s : State) : PortOnly s (capture s) := (portOnly_setIR _ _).trans (portOnly_scan32QKeep _ _)
theorem portOnly_slotScan (d : Word) (s : State) : PortOnly s (slotScan d s) :=
  (portOnly_emit _ _).trans (portOnly_scan96Q _ _)

theorem portOnly_runScans (qs : List QueuedScan) (s : State) : PortOnly s (runScans qs s) := by
  induction qs generalizing s with
  | nil => exact .refl s
  | cons q qs ih =>
    cases q with
    | discard => exact ih s
    | keep h => exact ((portOnly_drawWord s).trans (portOnly_withPort _ _)).trans (ih _)
    | keep96 h => exact ((portOnly_drawRecord s).trans (portOnly_withPort _ _)).trans (ih _)

/-- The two answers of the port (rules R140, R141). -/
theorem runPort_cases (s : State) :
    (∃ t, runPort s = .failed t ∧ PortOnly s t) ∨ (∃ t, runPort s = .got () t ∧ PortOnly s t) := by
  unfold runPort
  simp only
  split
  · exact .inl ⟨_, rfl, (portOnly_drawFail s).trans (portOnly_withPort _ _)⟩
  · exact .inr ⟨_, rfl, ((portOnly_drawFail s).trans (portOnly_withPort _ _)).trans (portOnly_runScans _ _)⟩

theorem scan32_cases (v : Word) (s : State) :
    (∃ t, scan32 v s = .failed t ∧ PortOnly s t) ∨ (∃ w t, scan32 v s = .got w t ∧ PortOnly s t) := by
  unfold scan32
  rcases runPort_cases (emit (.scan32 v) s) with ⟨t, h, f⟩ | ⟨t, h, f⟩
  · exact .inl ⟨t, by rw [h], (portOnly_emit _ _).trans f⟩
  · exact .inr ⟨_, _, by rw [h], ((portOnly_emit _ _).trans f).trans (portOnly_drawWord t)⟩

/-- The two answers of the control scan of WAIT_PRACC (rules R141, R143). -/
theorem scanControl_cases (polls : Nat) (s : State) :
    (∃ t, scanControl polls s = .failed t ∧ PortOnly s t) ∨ (∃ c t, scanControl polls s = .got c t ∧ PortOnly s t) := by
  have pre : PortOnly s (if polls = 0 then setIR s.cfg.ir.control s else s) := by
    split <;> [exact portOnly_setIR _ _; exact .refl s]
  rcases scan32_cases s.cfg.ctrlBase (if polls = 0 then setIR s.cfg.ir.control s else s) with ⟨t, h, f⟩ | ⟨c, t, h, f⟩
  · exact .inl ⟨t, h, pre.trans f⟩
  · exact .inr ⟨c, t, h, pre.trans f⟩

/-- The two answers of READ_ADDR (rules R141, R144). -/
theorem scanAddress_cases (s : State) :
    (∃ t, scanAddress s = .failed t ∧ PortOnly s t) ∨ (∃ a t, scanAddress s = .got a t ∧ PortOnly s t) := by
  rcases scan32_cases 0#32 (setIR s.cfg.ir.address s) with ⟨t, h, f⟩ | ⟨a, t, h, f⟩
  · exact .inl ⟨t, h, (portOnly_setIR _ _).trans f⟩
  · exact .inr ⟨a, t, h, (portOnly_setIR _ _).trans f⟩

/-- The two answers of ExecQueued (rules R141, R150). -/
theorem execQueued_cases (s : State) :
    (∃ t, execQueued s = .failed t ∧ PortOnly s t) ∨ (∃ t, execQueued s = .got () t ∧ PortOnly s t) := by
  rcases runPort_cases (emit .execQueued s) with ⟨t, h, f⟩ | ⟨t, h, f⟩
  · exact .inl ⟨t, h, (portOnly_emit _ _).trans f⟩
  · exact .inr ⟨t, h, (portOnly_emit _ _).trans f⟩

end Sys2Proof.Machine
end

