-- ==== Sys2Proof/Laws/Ops.lean ====
section
/-! SUPPORT. What the shared operations do, each said once: the queued micro-operations, the blocking scans whose answers are
laid down, APPEND, the end of FLUSH, the check of a batched record, the expansion of q.li, and the error exit of a command that runs
no recovery. -/

namespace Sys2Proof.Machine

/-! ## Micro-operations that wait for nothing -/

/-- FEED(w) (rule R146). -/
theorem feed_eq (w : Word) (s : State) :
    feed w s =
      { s with
        port :=
          { s.port with
            ir := s.cfg.ir.data
            queued := s.port.queued ++ [.discard]
            trace := .scan32Q (encLane s.cfg s.ses.isa s.ses.endian w) :: .setIR s.cfg.ir.data :: s.port.trace } } := rfl

/-- FINISH (rule R148). -/
theorem finish_eq (s : State) :
    finish s =
      { s with
        port :=
          { s.port with
            ir := s.cfg.ir.control
            queued := s.port.queued ++ [.discard]
            trace := .scan32Q (finWord s.cfg) :: .setIR s.cfg.ir.control :: s.port.trace } } := rfl

/-- CAPTURE (rule R147). -/
theorem capture_eq (s : State) :
    capture s =
      { s with
        port :=
          { s.port with
            ir := s.cfg.ir.data
            queued := s.port.queued ++ [.keep s.port.nextHandle]
            nextHandle := s.port.nextHandle + 1
            trace := .scan32Q 0#32 :: .setIR s.cfg.ir.data :: s.port.trace } } := rfl

/-! ## Blocking scans -/

/-- Queued scans whose captured values are discarded draw nothing. -/
theorem runScans_discards {qs : List QueuedScan} (h : ∀ q ∈ qs, q = .discard) (s : State) : runScans qs s = s := by
  induction qs with
  | nil => rfl
  | cons q qs ih =>
    rw [h q List.mem_cons_self]
    exact ih fun q hq => h q (List.mem_cons_of_mem _ hq)

/-- The port runs what is queued where the next draw is no failure (rules R140, R141). -/
theorem runPort_got {s : State} {fs : List Bool} (h : s.input.fails = false :: fs) :
    runPort s =
      .got ()
        (runScans s.port.queued
          { s with port := { s.port with queued := [] }, input := { s.input with fails := fs } }) := by
  simp only [runPort, drawFail_cons h]
  rfl

/-- The port fails where the next draw is a failure; what was queued is gone (rule R141, log entry 27). -/
theorem runPort_failed {s : State} {fs : List Bool} (h : s.input.fails = true :: fs) :
    runPort s = .failed { s with port := { s.port with queued := [] }, input := { s.input with fails := fs } } := by
  simp only [runPort, drawFail_cons h]
  rfl

/-- A blocking scan with only discarded scans before it takes one draw and one word (rules R140, R142). -/
theorem scan32_got {s : State} {v w : Word} {fs : List Bool} {ws : List Word} (hf : s.input.fails = false :: fs)
    (hw : s.input.words = w :: ws) (hq : ∀ q ∈ s.port.queued, q = .discard) :
    scan32 v s =
      .got w
        { s with
          port := { s.port with queued := [], trace := .scan32 v :: s.port.trace }
          input := { s.input with words := ws, fails := fs } } := by
  have hf' : (emit (.scan32 v) s).input.fails = false :: fs := hf
  rw [scan32, runPort_got hf', runScans_discards (by exact hq)]
  generalize hu : ({ (emit (.scan32 v) s) with
      port := { (emit (.scan32 v) s).port with queued := [] }
      input := { (emit (.scan32 v) s).input with fails := fs } } : State) = u
  have hw' : u.input.words = w :: ws := by rw [← hu]; exact hw
  simp only [drawWord_cons hw']
  rw [← hu]
  rfl

/-- READ_ADDR with only discarded scans before it (rule R144). -/
theorem scanAddress_got {s : State} {a : Word} {fs : List Bool} {ws : List Word} (hf : s.input.fails = false :: fs)
    (hw : s.input.words = a :: ws) (hq : ∀ q ∈ s.port.queued, q = .discard) :
    scanAddress s =
      .got a
        { s with
          port :=
            { s.port with
              ir := s.cfg.ir.address
              queued := []
              trace := .scan32 0#32 :: .setIR s.cfg.ir.address :: s.port.trace }
          input := { s.input with words := ws, fails := fs } } :=
  scan32_got (s := setIR s.cfg.ir.address s) hf hw hq

/-- The first poll of WAIT_PRACC with only discarded scans before it (rule R143). -/
theorem scanControl_first {s : State} {c : Word} {fs : List Bool} {ws : List Word} (hf : s.input.fails = false :: fs)
    (hw : s.input.words = c :: ws) (hq : ∀ q ∈ s.port.queued, q = .discard) :
    scanControl 0 s =
      .got c
        { s with
          port :=
            { s.port with
              ir := s.cfg.ir.control
              queued := []
              trace := .scan32 s.cfg.ctrlBase :: .setIR s.cfg.ir.control :: s.port.trace }
          input := { s.input with words := ws, fails := fs } } :=
  scan32_got (s := setIR s.cfg.ir.control s) hf hw hq

/-- A later poll of WAIT_PRACC (rule R143). -/
theorem scanControl_again {s : State} {c : Word} {polls : Nat} {fs : List Bool} {ws : List Word} (hp : polls ≠ 0)
    (hf : s.input.fails = false :: fs) (hw : s.input.words = c :: ws) (hq : ∀ q ∈ s.port.queued, q = .discard) :
    scanControl polls s =
      .got c
        { s with
          port := { s.port with queued := [], trace := .scan32 s.cfg.ctrlBase :: s.port.trace }
          input := { s.input with words := ws, fails := fs } } := by
  unfold scanControl
  rw [if_neg hp]
  exact scan32_got hf hw hq

/-- ExecQueued with only discarded scans queued (rule R150). -/
theorem execQueued_got {s : State} {fs : List Bool} (hf : s.input.fails = false :: fs)
    (hq : ∀ q ∈ s.port.queued, q = .discard) :
    execQueued s =
      .got ()
        { s with
          port := { s.port with queued := [], trace := .execQueued :: s.port.trace }
          input := { s.input with fails := fs } } := by
  have hf' : (emit .execQueued s).input.fails = false :: fs := hf
  rw [execQueued, runPort_got hf', runScans_discards (by exact hq)]
  rfl

/-! ## APPEND -/

/-- APPEND with room and no allocation failure (rule R113). -/
theorem appendEntry_ok {s : State} {e : Entry} {fs : List Bool} (h : s.input.allocs = false :: fs)
    (room : atCapacity s.cfg s.que.entries.length = false) :
    appendEntry e s =
      (true,
        { s with
          que :=
            { s.que with
              entries := s.que.entries ++ [e]
              storeCount := if e.addr ≠ 0#32 then s.que.storeCount + 1 else s.que.storeCount }
          input := { s.input with allocs := fs } }) := by
  simp only [appendEntry, drawAlloc_cons h]
  rw [if_neg]
  · rfl
  · rw [Bool.or_false]; exact fun c => Bool.noConfusion (room.symm.trans c)

/-! ## The end of FLUSH -/

/-- FLUSH ends in a new attempt (rules R152, R173, R177). -/
theorem endFlush_eq (s : State) : endFlush s = Safety.newAttempt s := rfl

/-! ## The check of a batched record -/

/-- A record passes where it meets the table of rule R225. -/
theorem checkSlot_eq_none_iff {cfg : Config} {prog : List Entry} {slot : Slot} {r : Record} :
    checkSlot cfg prog slot r = none ↔ Safety.SlotPasses cfg prog slot r := by
  unfold checkSlot Safety.SlotPasses Safety.isFetch classify
  generalize r.ctrl.getLsbD cfg.praccBit = p
  generalize r.ctrl.getLsbD cfg.prnwBit = n
  cases p <;> cases n <;> cases slot.isStore <;> simp
  all_goals split <;> simp

/-- A record fails with the kind and the reason of the first check it breaks (rules R227, R228). -/
theorem checkSlot_eq_some_iff {cfg : Config} {prog : List Entry} {slot : Slot} {r : Record} {k : Kind} {why : Reason} :
    checkSlot cfg prog slot r = some (k, why) ↔ Safety.SlotBreaks cfg prog slot r k why := by
  constructor
  · intro h
    unfold checkSlot at h
    split_ifs at h with hp hs hn ha hn ha ht <;> cases h
    · exact .notPending (by rw [Safety.isPending, hp]; exact Bool.false_ne_true)
    · exact .fetchForStore hs (by rw [Safety.isFetch, classify, Bool.eq_true_of_not_eq_false hp, hn]; rfl)
    · refine .storeAddr hs ?_ ha
      rw [classify, Bool.eq_true_of_not_eq_false hp, Bool.eq_true_of_not_eq_false hn]
      rfl
    · exact .storeForFetch (Bool.eq_false_of_not_eq_true hs)
        (by rw [classify, Bool.eq_true_of_not_eq_false hp, hn]; rfl)
    · refine .earlyReturn (Bool.eq_false_of_not_eq_true hs) ?_ ha ht
      rw [Safety.isFetch, classify, Bool.eq_true_of_not_eq_false hp, Bool.eq_false_of_not_eq_true hn]
      rfl
    · refine .fetchAddr (Bool.eq_false_of_not_eq_true hs) ?_ ha ht
      rw [Safety.isFetch, classify, Bool.eq_true_of_not_eq_false hp, Bool.eq_false_of_not_eq_true hn]
      rfl
  · intro h
    unfold checkSlot
    cases h with
    | notPending h => rw [if_pos (Bool.eq_false_of_not_eq_true h)]
    | fetchForStore hs hc | storeAddr hs hc ha | storeForFetch hs hc | earlyReturn hs hc ha ht | fetchAddr hs hc ha ht =>
      simp only [Safety.isFetch, classify] at hc
      split_ifs at hc with hp hn
      simp_all

/-! ## The pseudo-instruction q.li -/

/-- The expansion of q.li is one q.add, with no store address, for each word that Q_ADD_LI appends under the same S.isa
(rules R96, R115; under MICROMIPS log entry 37). -/
theorem expandLi_eq (isa : Isa) (r : RegNum) (optimize : Bool) (v : Word) :
    expandLi isa r optimize v = (liWords isa r optimize v).map fun w => .qAdd w 0#32 := by
  simp only [expandLi, liWords]
  split_ifs <;> rfl

/-! ## The error exit without a recovery -/

/-- The error exit of a command that is no EXEC (rule R298): the diagnostic record, the status, E.phase IDLE, and LOG and
E.pending emptied. -/
theorem errorExit_none (k : Kind) (r : Reason) (s : State) :
    errorExit none k r s =
      { s with
        ses := { s.ses with status := k, diag := diagnose r s }
        exe := { s.exe with phase := .idle, pending := none }
        log := []
        run := .reset } := rfl

/-- A command that ends. -/
theorem endCommand_eq (k : Kind) (s : State) :
    endCommand k s =
      { s with ses := { s.ses with status := k }, exe := { s.exe with phase := .idle }, run := .reset } := rfl

end Sys2Proof.Machine
end

