-- ==== Sys2Proof/Laws/PerInstr.lean ====
section
/-! SUPPORT. The encoding of every instruction against its row of spec/opcode_table.json: the family TableRow, one lemma per
constructor. -/

namespace Sys2Proof.Laws.TableRow

/-- The `mask` and `match` of an instruction's row. -/
def row : Instr → Word × Word
  | .qInit => (0xFFFFFFFF#32, 0x00000000#32)
  | .qAdd _ _ => (0xFFFFFFFF#32, 0x00000001#32)
  | .qAddLi _ _ _ => (0xFFFFBE0F#32, 0x00000002#32)
  | .exec => (0xFFFFFFFF#32, 0x00000003#32)
  | .feedUnchecked => (0xFFFFFFFF#32, 0x00000004#32)
  | .setMode _ => (0xFFFFBFFF#32, 0x00000005#32)
  | .setSnapshot _ _ => (0xFFFFFE0F#32, 0x00000006#32)
  | .recover _ _ => (0xFFFFC00F#32, 0x00000007#32)
  | .setIsa _ _ => (0xFFFF3FFF#32, 0x00000008#32)
  | .reservedCmd9 _ => (0x0000000F#32, 0x00000009#32)
  | .reservedCmdAB _ _ => (0x0000000E#32, 0x0000000A#32)
  | .reservedCmdCF _ _ => (0x0000000C#32, 0x0000000C#32)
  | .ctrlNotPending _ => (0x00040000#32, 0x00000000#32)
  | .ctrlFetch _ => (0x000C0000#32, 0x00040000#32)
  | .ctrlStore _ => (0x000C0000#32, 0x000C0000#32)
  | .nop => (0xFFFFFFFF#32, 0x00000000#32)
  | .lui _ _ => (0xFFE00000#32, 0x3C000000#32)
  | .ori _ _ _ => (0xFC000000#32, 0x34000000#32)
  | .j _ => (0xFC000000#32, 0x08000000#32)
  | .b _ => (0xFFFF0000#32, 0x10000000#32)

/-- How many words an instruction of a surface has (rules R80, R85, R89). -/
def words : Surface → Nat
  | .command => 3
  | .control | .word => 1

/-- A well-formed instruction is encoded in its surface's number of words, the first of which is a word of its row. -/
def Statement (i : Instr) : Prop :=
  i.wf = true → (encode i).length = words i.surface ∧ (encode i).head?.map (· &&& (row i).1) = some (row i).2

/-- Bits equal one by one are equal words. -/
theorem eq_of_bits {x y : Word} (h : ∀ k : Fin 32, x.getLsbD k = y.getLsbD k) : x = y :=
  BitVec.eq_of_getLsbD_eq fun k hk => h ⟨k, hk⟩

theorem of_head {i : Instr} {w : Word} {ws : List Word} (e : encode i = w :: ws)
    (n : (w :: ws).length = words i.surface) (h : w &&& (row i).1 = (row i).2) : Statement i :=
  fun _ => ⟨by rw [e, n], by rw [e]; exact congrArg some h⟩

theorem qInit : Statement .qInit := of_head rfl rfl (by decide)
theorem qAdd (instr storeAddr : Word) : Statement (.qAdd instr storeAddr) := of_head rfl rfl (by simp only [row]; decide)
theorem qAddLi (reg : RegNum) (optimize : Bool) (value : Word) : Statement (.qAddLi reg optimize value) :=
  of_head rfl rfl (by simp only [row]; revert reg optimize; decide)
theorem exec : Statement .exec := of_head rfl rfl (by decide)
theorem feedUnchecked : Statement .feedUnchecked := of_head rfl rfl (by decide)
theorem setMode (mode : Mode) : Statement (.setMode mode) := of_head rfl rfl (by cases mode <;> decide)
theorem setSnapshot (reg : RegNum) (value : Word) : Statement (.setSnapshot reg value) :=
  of_head rfl rfl (by simp only [row]; revert reg; decide)
theorem recover (first last : RegNum) : Statement (.recover first last) :=
  of_head rfl rfl (by simp only [row]; revert first last; decide)
theorem setIsa (isa : Isa) (endian : Endian) : Statement (.setIsa isa endian) :=
  of_head rfl rfl (by cases isa <;> cases endian <;> decide)
theorem reservedCmd9 (rest : BitVec 28) : Statement (.reservedCmd9 rest) :=
  of_head rfl rfl (eq_of_bits fun k => by
    simp only [row, BitVec.getLsbD_and, BitVec.getLsbD_append]; fin_cases k <;> simp)
theorem reservedCmdAB (rest : BitVec 28) (low : BitVec 1) : Statement (.reservedCmdAB rest low) :=
  of_head rfl rfl (eq_of_bits fun k => by
    simp only [row, BitVec.getLsbD_and, BitVec.getLsbD_append]; fin_cases k <;> simp)
theorem reservedCmdCF (rest : BitVec 28) (low : BitVec 2) : Statement (.reservedCmdCF rest low) :=
  of_head rfl rfl (eq_of_bits fun k => by
    simp only [row, BitVec.getLsbD_and, BitVec.getLsbD_append]; fin_cases k <;> simp)
theorem ctrlNotPending (c : Word) : Statement (.ctrlNotPending c) := fun h =>
  of_head rfl rfl (eq_of_bits fun k => by
    simp only [Instr.wf, Instr.wfUnder, Bool.not_eq_true', Fin.isValue] at h
    simp only [row, BitVec.getLsbD_and]; fin_cases k <;> simp_all) h
theorem ctrlFetch (c : Word) : Statement (.ctrlFetch c) := fun h =>
  of_head rfl rfl (eq_of_bits fun k => by
    simp only [Instr.wf, Instr.wfUnder, Bool.and_eq_true, Bool.not_eq_true', Fin.isValue] at h
    simp only [row, BitVec.getLsbD_and]; fin_cases k <;> simp_all) h
theorem ctrlStore (c : Word) : Statement (.ctrlStore c) := fun h =>
  of_head rfl rfl (eq_of_bits fun k => by
    simp only [Instr.wf, Instr.wfUnder, Bool.and_eq_true, Fin.isValue] at h
    simp only [row, BitVec.getLsbD_and]; fin_cases k <;> simp_all) h
theorem nop : Statement .nop := of_head rfl rfl (by decide)
theorem lui (rt : RegNum) (imm : BitVec 16) : Statement (.lui rt imm) :=
  of_head rfl rfl (eq_of_bits fun k => by
    simp only [row, luiWord, BitVec.getLsbD_and, BitVec.getLsbD_append]; fin_cases k <;> simp)
theorem ori (rt rs : RegNum) (imm : BitVec 16) : Statement (.ori rt rs imm) :=
  of_head rfl rfl (eq_of_bits fun k => by
    simp only [row, oriWord, BitVec.getLsbD_and, BitVec.getLsbD_append]; fin_cases k <;> simp)
theorem j (index : BitVec 26) : Statement (.j index) :=
  of_head rfl rfl (eq_of_bits fun k => by
    simp only [row, jWord, BitVec.getLsbD_and, BitVec.getLsbD_append]; fin_cases k <;> simp)
theorem b (off : BitVec 16) : Statement (.b off) :=
  of_head rfl rfl (eq_of_bits fun k => by
    simp only [row, bWord, BitVec.getLsbD_and, BitVec.getLsbD_append]; fin_cases k <;> simp)

end Sys2Proof.Laws.TableRow
end

