-- ==== Sys2Proof/Laws/Run.lean ====
section
/-! SUPPORT. What a running command can change: one frame for every operation it is built from, up to the micro-step and the
run to its end. The parameters, Q, the snapshot, the ISA flags, the inbox and the target view stay, and the mode stays or
becomes SYNC (rule R267). -/

namespace Sys2Proof.Machine

/-- What every step of a running command leaves as it was. -/
structure RunFrame (s t : State) : Prop where
  cfg : t.cfg = s.cfg
  que : t.que = s.que
  snap : t.ses.snap = s.ses.snap
  isa : t.ses.isa = s.ses.isa
  endian : t.ses.endian = s.ses.endian
  inbox : t.inbox = s.inbox
  target : t.target = s.target
  mode : t.ses.mode = s.ses.mode ∨ t.ses.mode = .sync

theorem RunFrame.refl (s : State) : RunFrame s s := ⟨rfl, rfl, rfl, rfl, rfl, rfl, rfl, .inl rfl⟩

theorem RunFrame.trans {s t u : State} (h : RunFrame s t) (k : RunFrame t u) : RunFrame s u where
  cfg := k.cfg.trans h.cfg
  que := k.que.trans h.que
  snap := k.snap.trans h.snap
  isa := k.isa.trans h.isa
  endian := k.endian.trans h.endian
  inbox := k.inbox.trans h.inbox
  target := k.target.trans h.target
  mode := k.mode.elim (fun e => h.mode.imp (e.trans ·) (e.trans ·)) .inr

theorem PortOnly.runFrame {s t : State} (h : PortOnly s t) : RunFrame s t :=
  ⟨h.cfg, h.que, by rw [h.ses], by rw [h.ses], by rw [h.ses], h.inbox, h.target, .inl (by rw [h.ses])⟩

/-! ## Updates -/

theorem runFrame_withExe (s : State) (x : Executor) : RunFrame s (s.withExe x) := ⟨rfl, rfl, rfl, rfl, rfl, rfl, rfl, .inl rfl⟩
theorem runFrame_withRun (s : State) (x : Run) : RunFrame s (s.withRun x) := ⟨rfl, rfl, rfl, rfl, rfl, rfl, rfl, .inl rfl⟩
theorem runFrame_withOut (s : State) (x : Memory) : RunFrame s (s.withOut x) := ⟨rfl, rfl, rfl, rfl, rfl, rfl, rfl, .inl rfl⟩
theorem runFrame_withLog (s : State) (x : List Record) : RunFrame s (s.withLog x) :=
  ⟨rfl, rfl, rfl, rfl, rfl, rfl, rfl, .inl rfl⟩
theorem runFrame_withPhase (s : State) (p : Phase) : RunFrame s (s.withPhase p) := runFrame_withExe _ _
theorem runFrame_withStatus (s : State) (k : Kind) : RunFrame s (s.withStatus k) :=
  ⟨rfl, rfl, rfl, rfl, rfl, rfl, rfl, .inl rfl⟩
theorem runFrame_waitAt (s : State) (p : Point) : RunFrame s (s.waitAt p) := runFrame_withRun _ _

/-! ## Ends of runs -/

theorem runFrame_endCommand (k : Kind) (s : State) : RunFrame s (endCommand k s) :=
  ((runFrame_withStatus s k).trans (runFrame_withPhase _ _)).trans (runFrame_withRun _ _)

theorem runFrame_startSync (ctx : Ctx) (prog : List Entry) (s : State) : RunFrame s (startSync ctx prog s) :=
  (runFrame_withExe s _).trans (runFrame_withRun _ _)

/-- The two starts of a recovery (rule R263). -/
theorem startRecovery_cases (ctx : Ctx) (first last : RegNum) (f : State → State) (s : State) :
    (recoveryProgram s.ses.isa s.ses.snap first last = [] ∧ startRecovery ctx first last f s = f s) ∨
      (recoveryProgram s.ses.isa s.ses.snap first last ≠ [] ∧
        startRecovery ctx first last f s = startSync ctx (recoveryProgram s.ses.isa s.ses.snap first last) s) := by
  unfold startRecovery
  split
  · rename_i h; exact .inl ⟨h, rfl⟩
  · rename_i h; exact .inr ⟨h, rfl⟩

theorem runFrame_startRecovery (ctx : Ctx) (first last : RegNum) {f : State → State} {s : State} (h : RunFrame s (f s)) :
    RunFrame s (startRecovery ctx first last f s) := by
  rcases startRecovery_cases ctx first last f s with ⟨-, e⟩ | ⟨-, e⟩ <;> rw [e]
  · exact h
  · exact runFrame_startSync _ _ _

theorem runFrame_recordFailure (b : Bool) (r : Reason) (s : State) : RunFrame s (recordFailure b r s) := by
  cases b
  · exact ⟨rfl, rfl, rfl, rfl, rfl, rfl, rfl, .inl rfl⟩
  · exact ⟨rfl, rfl, rfl, rfl, rfl, rfl, rfl, .inr rfl⟩

theorem runFrame_errorExit (ctx : Option Ctx) (k : Kind) (r : Reason) (s : State) : RunFrame s (errorExit ctx k r s) := by
  have ends (b : Bool) : RunFrame s (endCommand k (recordFailure b r s)) :=
    (runFrame_recordFailure b r s).trans (runFrame_endCommand _ _)
  have recov (b : Bool) :
      RunFrame s (startRecovery (.exitRecovery k) 0 31 (endCommand k) (recordFailure b r s)) :=
    (runFrame_recordFailure b r s).trans (runFrame_startRecovery _ _ _ (runFrame_endCommand _ _))
  unfold errorExit
  split
  · simp only; split <;> [exact recov false; exact ends false]
  · simp only; split <;> [exact recov true; exact ends true]
  all_goals exact ends false

theorem runFrame_noteRecovery (ok : Bool) (first last : RegNum) (s : State) : RunFrame s (noteRecovery ok first last s) := by
  have same (b : Bool) : RunFrame s (s.withSes { s.ses with scratchSuspect := b }) :=
    ⟨rfl, rfl, rfl, rfl, rfl, rfl, rfl, .inl rfl⟩
  unfold noteRecovery
  split
  · split <;> [exact same false; exact .refl s]
  · exact same true

theorem runFrame_raise (k : Kind) (r : Reason) (s : State) : RunFrame s (raise k r s) := by
  unfold raise
  split
  · exact (runFrame_noteRecovery ..).trans (runFrame_errorExit ..)
  · exact (runFrame_noteRecovery ..).trans (runFrame_endCommand ..)
  all_goals exact runFrame_errorExit ..

theorem runFrame_succeed (s : State) : RunFrame s (succeed s) := by
  unfold succeed
  split
  · exact (runFrame_noteRecovery ..).trans (runFrame_endCommand ..)
  · exact (runFrame_noteRecovery ..).trans (runFrame_endCommand ..)
  all_goals exact runFrame_endCommand ..

/-! ## The synchronous executor -/

theorem runFrame_resetAttempt (s : State) : RunFrame s (resetAttempt s) := runFrame_withExe _ _

theorem runFrame_endFlush (s : State) : RunFrame s (endFlush s) :=
  ((runFrame_withExe s _).trans (runFrame_resetAttempt _)).trans (runFrame_waitAt _ _)

theorem runFrame_flushExtra (j : Nat) (s : State) : RunFrame s (flushExtra j s) := by
  unfold flushExtra; split <;> [exact runFrame_waitAt _ _; exact runFrame_endFlush s]

theorem runFrame_flushFrom (i : Nat) (s : State) : RunFrame s (flushFrom i s) := by
  unfold flushFrom; split <;> [exact runFrame_waitAt _ _; exact runFrame_flushExtra _ _]

theorem runFrame_loopTop (s : State) : RunFrame s (loopTop s) := by
  unfold loopTop
  split
  · split <;> [exact runFrame_raise ..; exact runFrame_flushFrom ..]
  · exact runFrame_waitAt _ _

theorem runFrame_resolvePending (s : State) : RunFrame s (resolvePending s) := by
  unfold resolvePending
  split <;> [exact .refl s; exact (runFrame_withOut _ _).trans (runFrame_withExe _ _)]

theorem runFrame_finishExchange (s : State) : RunFrame s (finishExchange s) := by
  unfold finishExchange
  refine (portOnly_finish s).runFrame.trans ?_
  simp only
  split <;> [exact runFrame_waitAt _ _; exact runFrame_loopTop _]

theorem runFrame_storeCycle (a : Word) (s : State) : RunFrame s (storeCycle a s) := by
  unfold storeCycle
  split
  · exact runFrame_raise ..
  · split
    · exact runFrame_raise ..
    · split
      · exact runFrame_raise ..
      · exact ((portOnly_capture s).runFrame.trans (runFrame_withExe _ _)).trans (runFrame_finishExchange _)

theorem runFrame_fetchMismatch (a : Word) (s : State) : RunFrame s (fetchMismatch a s) := by
  unfold fetchMismatch
  split
  · exact ((runFrame_withExe s _).trans (runFrame_resetAttempt _)).trans (runFrame_loopTop _)
  · split
    · exact (runFrame_withExe s _).trans (runFrame_loopTop _)
    · exact runFrame_raise ..

theorem runFrame_feedEntry (s : State) : RunFrame s (feedEntry s) :=
  (((runFrame_withExe s _).trans (portOnly_feed _ _).runFrame).trans (runFrame_withExe _ _)).trans
    (runFrame_finishExchange _)

theorem runFrame_padFetch (s : State) : RunFrame s (padFetch s) := by
  unfold padFetch
  split
  · exact runFrame_raise ..
  · split
    · exact runFrame_raise ..
    · exact ((portOnly_feed _ s).runFrame.trans (runFrame_withExe _ _)).trans (runFrame_finishExchange _)

theorem runFrame_fetchFinal (a : Word) (s : State) : RunFrame s (fetchFinal a s) := by
  unfold fetchFinal
  split
  · split
    · exact runFrame_raise ..
    · split
      · exact runFrame_waitAt _ _
      · exact (runFrame_withExe s _).trans (runFrame_padFetch _)
  · split
    · exact runFrame_raise ..
    · exact runFrame_padFetch s

theorem runFrame_noteObserved (c a : Word) (s : State) : RunFrame s (noteObserved c a s) :=
  ⟨rfl, rfl, rfl, rfl, rfl, rfl, rfl, .inl rfl⟩

theorem runFrame_cycle (isStore : Bool) (c a : Word) (s : State) : RunFrame s (cycle isStore c a s) := by
  unfold cycle
  refine ((runFrame_noteObserved c a s).trans (runFrame_resolvePending _)).trans ?_
  simp only
  split
  · exact runFrame_storeCycle a _
  · split
    · unfold fetchExecuting
      split <;> [exact runFrame_feedEntry _; exact runFrame_fetchMismatch a _]
    · exact runFrame_fetchFinal a _

theorem runFrame_extraRound (j : Nat) (c a : Word) (s : State) : RunFrame s (extraRound j c a s) := by
  unfold extraRound
  refine (runFrame_noteObserved c a s).trans ?_
  simp only
  split
  · exact runFrame_endFlush _
  · exact ((portOnly_feed _ _).trans (portOnly_finish _)).runFrame.trans (runFrame_flushExtra _ _)

theorem runFrame_drained (s : State) : RunFrame s (drained s) :=
  ((runFrame_resolvePending s).trans (runFrame_withPhase _ _)).trans (runFrame_succeed _)

/-! ## The batched executor -/

theorem portOnly_issueSlots (slots : List Slot) (s : State) : PortOnly s (issueSlots slots s).2 := by
  induction slots generalizing s with
  | nil => exact .refl s
  | cons slot slots ih => exact (portOnly_slotScan _ s).trans (ih _)

theorem runFrame_startBatched (s : State) : RunFrame s (startBatched s) :=
  ((((runFrame_withExe s _).trans (runFrame_withRun _ _)).trans (portOnly_setIR _ _).runFrame).trans
    (portOnly_issueSlots _ _).runFrame).trans (runFrame_waitAt _ _)

theorem runFrame_replay (log : List (Slot × Record)) (stage : List (Nat × Word)) (s : State) :
    RunFrame s (replay log stage s).2.2 := by
  induction log generalizing stage s with
  | nil => exact .refl s
  | cons p rest ih =>
    obtain ⟨slot, r⟩ := p
    have seen : RunFrame s (s.withSes { s.ses with lastCtrl := r.ctrl, lastAddr := r.addr }) :=
      ⟨rfl, rfl, rfl, rfl, rfl, rfl, rfl, .inl rfl⟩
    unfold replay
    simp only
    split
    · exact seen
    · split
      · exact seen.trans (ih _ _)
      · exact (seen.trans (runFrame_withExe _ _)).trans (ih _ _)

theorem runFrame_batchRan (plan : List (Slot × Nat)) (s : State) : RunFrame s (batchRan plan s) := by
  unfold batchRan
  simp only
  generalize hl : plan.map (fun p => (p.1, capturedRecord s p.2)) = log
  have h := (runFrame_withLog s (log.map Prod.snd)).trans (runFrame_replay log [] _)
  split
  · rename_i e
    rw [e] at h
    exact h.trans (runFrame_raise ..)
  · rename_i e
    rw [e] at h
    exact (((h.trans (runFrame_withOut _ _)).trans (runFrame_withLog _ _)).trans (runFrame_withPhase _ _)).trans
      (runFrame_succeed _)

/-! ## The micro-step and the whole command -/

theorem runFrame_feedFrom (k : Nat) (s : State) : RunFrame s (feedFrom k s) := by
  unfold feedFrom; split <;> exact runFrame_waitAt _ _

theorem runFrame_onNotPending (s : State) : RunFrame s (onNotPending s) := by
  unfold onNotPending
  split
  · split <;> [exact runFrame_raise ..; exact runFrame_waitAt _ _]
  all_goals exact .refl s

theorem runFrame_onAccess (isStore : Bool) (c : Word) (s : State) : RunFrame s (onAccess isStore c s) := by
  unfold onAccess
  split
  · exact runFrame_waitAt _ _
  · exact runFrame_waitAt _ _
  · exact ((portOnly_feed _ s).trans (portOnly_finish _)).runFrame.trans (runFrame_flushFrom _ _)
  · exact ((portOnly_feed _ s).trans (portOnly_finish _)).runFrame.trans (runFrame_feedFrom _ _)
  all_goals exact .refl s

theorem runFrame_onControl (c : Word) (s : State) : RunFrame s (onControl c s) := by
  unfold onControl
  split <;> [exact runFrame_onNotPending s; exact runFrame_onAccess ..; exact runFrame_onAccess ..]

theorem runFrame_onAddress (w : Wait) (isStore : Bool) (c a : Word) (s : State) :
    RunFrame s (onAddress w isStore c a s) := by
  unfold onAddress
  split <;> [exact runFrame_cycle ..; exact runFrame_extraRound ..; exact .refl s; exact .refl s]

/-- A micro-step keeps the frame. -/
theorem runFrame_tick (s : State) : RunFrame s (tick s) := by
  unfold tick
  split
  · exact .refl s
  · rename_i polls _
    rcases scanControl_cases polls s with ⟨t, h, f⟩ | ⟨c, t, h, f⟩ <;> rw [h]
    · exact f.runFrame.trans (runFrame_raise ..)
    · exact f.runFrame.trans (runFrame_onControl ..)
  · rcases scanAddress_cases s with ⟨t, h, f⟩ | ⟨a, t, h, f⟩ <;> rw [h]
    · exact f.runFrame.trans (runFrame_raise ..)
    · exact f.runFrame.trans (runFrame_onAddress ..)
  all_goals
    rcases execQueued_cases s with ⟨t, h, f⟩ | ⟨t, h, f⟩ <;> rw [h]
    · exact f.runFrame.trans (runFrame_raise ..)
  · exact f.runFrame.trans (runFrame_drained t)
  · exact f.runFrame.trans (runFrame_succeed t)
  · exact f.runFrame.trans (runFrame_batchRan _ t)

/-- Whatever every micro-step keeps, the micro-steps of a command keep. -/
theorem runTicks_induct {P : State → Prop} (step : ∀ s, P s → P (tick s)) (fuel : Nat) {s : State} (h : P s) :
    P (runTicks fuel s) := by
  induction fuel generalizing s with
  | zero => exact h
  | succ n ih => unfold runTicks; split <;> [exact h; exact ih (step s h)]

/-- Whatever every micro-step keeps, a command's run to its end keeps. -/
theorem runToEnd_induct {P : State → Prop} (step : ∀ s, P s → P (tick s)) {s : State} (h : P s) : P (runToEnd s) := by
  unfold runToEnd; split <;> [exact h; exact runTicks_induct step _ h]

/-- A command's run to its end keeps the frame. -/
theorem runFrame_runToEnd (s : State) : RunFrame s (runToEnd s) :=
  runToEnd_induct (P := RunFrame s) (fun t h => h.trans (runFrame_tick t)) (.refl s)

/-- With no command running, a micro-step changes nothing. -/
theorem tick_idle {s : State} (h : s.run.point = .idle) : tick s = s := by unfold tick; rw [h]

/-- `step` in a running command is the micro-step: the captured control word goes through its row of the opcode table. -/
theorem stepRunning_eq_tick (s : State) : stepRunning s = .next (tick s) := by
  unfold stepRunning
  split
  · rename_i w polls h
    unfold tick
    rw [h]
    simp only
    rcases scanControl_cases polls s with ⟨t, e, f⟩ | ⟨c, t, e, f⟩ <;> rw [e]
    simp only [decodeControl, onControl, f.cfg]
    cases classify s.cfg.praccBit s.cfg.prnwBit c <;> rfl
  all_goals rfl

end Sys2Proof.Machine
end

