-- ==== Sys2Proof/Tests/Slice0.lean ====
section
/-! SUPPORT. Tests on fixed values. Their expected results are the vectors of 95_test_vectors.md (V…, programs) or worked out
by hand from the rules named. -/

namespace Sys2Proof.Tests

open Sys2Proof.Machine Sys2Proof.Safety

/-! ## A configuration and small states: the common assumptions of 95_test_vectors.md -/

def params : Params :=
  { paramOutWords := 16
    ctrlBase := 0x00048000#32
    pollLimit := 4
    queueCapacity := none
    pacingClocks := 0
    swap16 := { microBig := false, microLittle := false } }

def cfg : Config := { toParams := params, sound := by decide }

/-- The same with STORE_SCAN_LAG = 1. -/
def cfgLag : Config := { toParams := { params with storeScanLag := .one }, sound := by decide }

/-- A session just opened. -/
def fresh : State := .resetWith cfg

/-- A session with a queue and the answers of a target laid down; no scan fails. -/
def ready (c : Config) (mode : Mode) (entries : List Entry) (words : List Word) : State :=
  let s := State.resetWith c
  { s with
    ses := { s.ses with mode := mode }
    que := { entries := entries, storeCount := countStores entries, error := false }
    input := { s.input with words := words, fails := List.replicate 40 false } }

/-- The control words of a fetch and of a store, and T and P. -/
abbrev Cf : Word := 0x00048000#32
abbrev Cs : Word := 0x000C8000#32
abbrev T : Word := 0xFF200200#32
abbrev P : Word := 0xFF202000#32

def nextOf : Host.Outcome State Fault Refusal → Option State
  | .next t => some t
  | .fault _ | .refused _ => none

/-- Some fields of the next state of an instruction. -/
def after {α : Type} (i : Instr) (s : State) (f : State → α) : Option α := (nextOf (exec i s)).map f

/-! ## Configurations (rule R10) -/

def rejects (p : Params) (e : ConfigError) : Bool := p.problem? == some e

theorem test_config_text_misaligned : rejects { params with textBase := 0xFF200202#32 } .textBaseMisaligned := by decide
theorem test_config_out_misaligned : rejects { params with paramOutBase := 0xFF202001#32 } .paramOutBaseMisaligned := by decide
theorem test_config_windows_meet : rejects { params with paramOutBase := 0xFF200200#32 } .windowsOutOfOrder := by decide
theorem test_config_no_out_word : rejects { params with paramOutWords := 0 } .noOutWord := by decide
theorem test_config_window_too_long : rejects { params with paramOutWords := 0x37F801 } .outWindowTooLong := by decide
theorem test_config_window_to_the_top : ({ params with paramOutWords := 0x37F800 } : Params).problem? = none := by decide
theorem test_config_ctrl_base : rejects { params with ctrlBase := 0x00008000#32 } .ctrlBaseNotObserving := by decide
theorem test_config_same_bits : rejects { params with prnwBit := 18 } .sameControlBits := by decide
theorem test_config_no_poll : rejects { params with pollLimit := 0 } .noPoll := by decide
theorem test_config_no_capacity : rejects { params with queueCapacity := some 0 } .noCapacity := by decide

/-! ## Well-formedness (rule R85) -/

theorem test_wf_refuses_pending_as_not_pending : (Instr.ctrlNotPending 0x00040000#32).wf = false := by decide
theorem test_wf_refuses_store_as_fetch : (Instr.ctrlFetch 0x000C8000#32).wf = false := by decide
theorem test_wf_refuses_idle_as_fetch : (Instr.ctrlFetch 0x00080000#32).wf = false := by decide
theorem test_wf_refuses_fetch_as_store : (Instr.ctrlStore 0x00048000#32).wf = false := by decide
theorem test_wf_accepts : (Instr.ctrlStore 0xFFFFFFFF#32).wf && (Instr.ctrlFetch 0x00048000#32).wf = true := by decide

/-! ## Decoding words written out from the encodings (rules R81 to R93; V1 to V9) -/

theorem test_decode_q_init : decode .command [0b00000000000000000000000000000000#32, 7, 9] = .ok .qInit := by decide
theorem test_decode_q_add :
    decode .command [0b00000000000000000000000000000001#32, 0xADE82000, 0xFF202000]
      = .ok (.qAdd 0xADE82000 0xFF202000) := by decide
theorem test_decode_q_add_li :
    decode .command [0b00000000000000000100000010000010#32, 0x12345678, 0] = .ok (.qAddLi 8 true 0x12345678) := by decide
theorem test_decode_q_add_li_noopt :
    decode .command [0b00000000000000000000000111110010#32, 1, 0] = .ok (.qAddLi 31 false 1) := by decide
theorem test_decode_exec : decode .command [0b00000000000000000000000000000011#32, 0, 0] = .ok .exec := by decide
theorem test_decode_feed : decode .command [0b00000000000000000000000000000100#32, 0, 0] = .ok .feedUnchecked := by decide
theorem test_decode_set_mode :
    decode .command [0b00000000000000000100000000000101#32, 0, 0] = .ok (.setMode .batched) := by decide
theorem test_decode_set_snapshot :
    decode .command [0b00000000000000000000000011110110#32, 0x1234, 0] = .ok (.setSnapshot 15 0x1234) := by decide
theorem test_decode_recover :
    decode .command [0b00000000000000000001111010000111#32, 0, 0] = .ok (.recover 8 15) := by decide
theorem test_decode_set_isa :
    decode .command [0b00000000000000001100000000001000#32, 0, 0] = .ok (.setIsa .microMips .little) := by decide
theorem test_decode_reserved_9 :
    decode .command [0b00000000000000010000000000011001#32, 0, 0] = .ok (.reservedCmd9 0x0001001) := by decide
theorem test_decode_reserved_b :
    decode .command [0b00000000000000000000000000001011#32, 0, 0] = .ok (.reservedCmdAB 0 1) := by decide
theorem test_decode_reserved_f :
    decode .command [0b00000000000000000000000000001111#32, 0, 0] = .ok (.reservedCmdCF 0 3) := by decide
theorem test_decode_refuses_v3 : decode .command [0x00000013#32, 0, 0] = .error (.unusedField 3) := by decide
theorem test_decode_refuses_v5 : decode .command [0x0000C082#32, 0, 0] = .error (.unusedField 2) := by decide
theorem test_decode_refuses_v9 : decode .command [0x00010000#32, 0, 0] = .error (.unusedField 0) := by decide
theorem test_decode_refuses_short : decode .command [0x00000000#32] = .error .wrongLength := by decide

theorem test_control_classes :
    [0x00000000#32, 0x00080000, 0x00040000, 0x00048000, 0x000C8000, 0xFFFFFFFF, 0xFFFBFFFF].map (classify 18 19)
      = [.notPending, .notPending, .fetch, .fetch, .store, .store, .notPending] := by decide

theorem test_decode_nop : decode .word [0#32] = .ok .nop := by decide
theorem test_decode_lui : decode .word [0b00111100000010000001001000110100#32] = .ok (.lui 8 0x1234) := by decide
theorem test_decode_ori : decode .word [0b00110101001010000101011001111000#32] = .ok (.ori 8 9 0x5678) := by decide
theorem test_decode_j : decode .word [0b00001011110010000000000010000000#32] = .ok (.j 0x3C80080) := by decide
theorem test_decode_b : decode .word [0b00010000000000001111111111111100#32] = .ok (.b 0xFFFC) := by decide
theorem test_decode_refuses_sw : decode .word [0xADE82000#32] = .error .notAnEmittedWord := by decide

/-- The words built by the block (95_test_vectors.md). -/
theorem test_built_words :
    [luiWord 8 0x1234, oriWord 8 8 0x5678, oriWord 15 0 0x1234, jTo T, bWord (-4), bWord (-6), bWord (-2)]
      = [0x3C081234, 0x35085678, 0x340F1234, 0x0BC80080, 0x1000FFFC, 0x1000FFFA, 0x1000FFFE] := by decide

theorem test_record_fields : packRecord { ctrl := 1, data := 2, addr := 3 } = 0x000000030000000200000001#96 := by decide

/-! ## OUT (rules R39, R63, R268) -/

/-- The later store wins, and a word equal to what an unlisted index holds is not listed. -/
theorem test_memory :
    (Memory.writeAll [] [(3, 7), (0, 5), (3, 0)] = [(0, 5)] ∧ Memory.writeAll [] [(3, 7), (0, 5), (3, 9)] = [(0, 5), (3, 9)])
      ∧ Memory.read [(0, 5), (3, 9)] 3 = 9 := by decide
/-- At session open every word of OUT holds a value, and there is no word after the last. -/
theorem test_host_reads_out :
    (outWord? 0 fresh).isSome = true ∧ (outWord? 15 fresh).isSome = true ∧ outWord? 16 fresh = none := by decide

/-! ## Q_INIT, Q_ADD, Q_ADD_LI (V10 to V29) -/

/-- A queue in error, as V21 leaves it. -/
def errored : State := { fresh with que := { entries := [], storeCount := 0, error := true } }

theorem test_q_init : after .qInit errored (·.que) = some { entries := [], storeCount := 0, error := false } := by decide

/-- Appends with `alloc_fail` drawn as given. -/
def allocating (draws : List Bool) : State := { fresh with input := { fresh.input with allocs := draws } }

theorem test_q_add_v20 :
    after (.qAdd 0xADE82000 0xFF202000) (allocating [false]) (fun t => (t.que.entries, t.que.storeCount, t.ses.status))
      = some ([{ instr := 0xADE82000, addr := 0xFF202000 }], 1, .ok) := by decide
theorem test_q_add_v23 :
    after (.qAdd 0 0xFF202040) fresh (fun t => (t.que.entries, t.que.error, t.ses.status, t.ses.diag.reason))
      = some ([], true, .illegal, some .badOperand) := by decide

def liQueue (reg : RegNum) (optimize : Bool) (value : Word) : Option (List Word) :=
  after (.qAddLi reg optimize value) (allocating [false, false]) fun t => t.que.entries.map Entry.instr

theorem test_q_add_li_optimized :
    [liQueue 8 true 0, liQueue 8 true 0x1234, liQueue 8 true 0x12340000, liQueue 9 true 0x00010001]
      = [some [0x3C080000], some [0x34081234], some [0x3C081234], some [0x3C090001, 0x35290001]] := by decide
theorem test_q_add_li_v29 :
    after (.qAddLi 8 true 0x12345678) (allocating [false, true])
        (fun t => (t.que.entries.map Entry.instr, t.que.error, t.ses.status, t.ses.diag.reason))
      = some ([0x3C081234], true, .resource, some .alloc) := by decide

/-! ## EXEC (V30 to V52) -/

/-- One store, answered after the next fetch: the shape of program 1 with two entries. -/
def storing : List Entry := [{ instr := 0xADE82000, addr := P }, { instr := 0, addr := 0 }]

theorem test_exec_stores :
    after .exec (ready cfg .sync storing [Cf, T, Cf, T + 4, Cs, P, 0x5A5A, Cf, T])
        (fun t => (t.ses.status, t.out, t.exe.restartCount, t.ses.lastAddr))
      = some (.ok, [(0, 0x5A5A)], 0, T) := by decide +kernel
/-- V33: a store comes first; the diagnostic record is that vector's. -/
theorem test_exec_v33 :
    after .exec (ready cfg .sync storing [Cs, P]) (fun t => (t.ses.status, t.ses.diag))
      = some (.desync,
          { reason := some .unexpectedStore, phase := .executing, codeCount := 0, storePending := 0, restartCount := 0,
            ctrl := Cs, addr := P }) := by decide +kernel

/-- V48 in small: a record without a pending access fails the batch, and the mode falls to SYNC. -/
theorem test_exec_v48 :
    after .exec
        { ready cfgLag .batched storing [] with
          input := { fresh.input with fails := [false], records := [⟨Cf, 0, T⟩, ⟨0x8000, 0, T + 4⟩, ⟨Cs, 1, P⟩] } }
        (fun t => (t.ses.status, t.ses.diag.reason, t.ses.mode, t.out))
      = some (.desync, some .batchNotPending, .sync, []) := by decide +kernel

/-- V47: the plans of a queue with two stores. -/
theorem test_plans :
    ((buildSlots cfg [⟨1, P⟩, ⟨2, P + 4⟩]).map fun x => (x.isStore, x.k)) = [(false, 0), (true, 0), (false, 1), (true, 1)]
      ∧ ((buildSlots cfgLag [⟨1, P⟩, ⟨2, P + 4⟩]).map fun x => (x.isStore, x.k)) = [(false, 0), (false, 1), (true, 0)] := by
  decide

/-! ## FEED_UNCHECKED and the session commands (V53 to V57) -/

/-- V53 in small: the second access is a store, and is fed like the first. -/
theorem test_feed_v53 :
    after .feedUnchecked (ready cfg .batched [⟨0x11111111, 0⟩, ⟨0x22222222, 0⟩] [Cf, Cs])
        (fun t => (t.ses.status, t.out, t.ses.lastCtrl, t.ses.lastAddr, t.port.trace.count (.scan32Q 0x22222222)))
      = some (.ok, [], 0, 0, 1) := by decide +kernel

theorem test_set_mode : after (.setMode .batched) fresh (fun t => (t.ses.mode, t.ses.status)) = some (.batched, .ok) := by
  decide

theorem test_set_snapshot_v54 :
    after (.setSnapshot 15 5) fresh (fun t => (t.ses.snap.r15, t.ses.status)) = some ({ value := 5, valid := true }, .ok) := by
  decide
theorem test_set_snapshot_v54_refused :
    after (.setSnapshot 11 5) fresh (fun t => (t.ses.snap, t.ses.status)) = some (fresh.ses.snap, .illegal) := by decide

/-- The snapshot of program 3. -/
def snap3 : SnapFile :=
  { r8 := ⟨0x12345678, true⟩, r9 := ⟨0, true⟩, r10 := ⟨0xFFFF0000, true⟩, r15 := ⟨0x1234, true⟩ }

theorem test_recovery_program_3 :
    (recoveryProgram .mips32 snap3 8 15).map Entry.instr
      = [0x3C081234, 0x35085678, 0x3C090000, 0x3C0AFFFF, 0x340F1234, 0x1000FFFA, 0] := by decide

/-- V56: one register. -/
def one : State :=
  { ready cfg .sync [] [Cf, T, Cf, T + 4, Cf, T + 8, Cf, T] with
    ses := { fresh.ses with snap := { fresh.ses.snap with r10 := ⟨7, true⟩ }, scratchSuspect := true } }

theorem test_recover_v56 :
    after (.recover 10 10) one (fun t => (t.ses.status, t.ses.scratchSuspect, t.port.trace.count (.scan32Q 0x340A0007)))
      = some (.ok, true, 1) := by decide +kernel
theorem test_recover_v55 : after (.recover 15 8) fresh (fun t => (t.ses.status, t.ses.diag.reason))
      = some (.illegal, some .badOperand) := by decide

theorem test_set_isa : after (.setIsa .microMips .little) fresh (fun t => (t.ses.isa, t.ses.endian))
      = some (.microMips, .little) := by decide

theorem test_reserved_9 : after (.reservedCmd9 0) fresh (fun t => (t.ses.status, t.ses.diag.reason, t.que))
      = some (.illegal, some .illegalCommand, fresh.que) := by decide
theorem test_reserved_ab : after (.reservedCmdAB 0 1) fresh (fun t => t.ses.status) = some .illegal := by decide
theorem test_reserved_cf : after (.reservedCmdCF 5 3) fresh (fun t => t.ses.status) = some .illegal := by decide

/-! ## Captured control words (rules R85, R143) -/

/-- An EXEC that polls for its first access. -/
def polling : State :=
  { ready cfg .sync storing [] with
    exe := { Executor.reset with phase := .executing }
    run := { ctx := some .execSync, prog := storing, point := .poll .cycle 2 } }

theorem test_ctrl_not_pending : after (.ctrlNotPending 0) polling (fun t => t.run.point) = some (.poll .cycle 3) := by decide
theorem test_ctrl_fetch : after (.ctrlFetch Cf) polling (fun t => t.run.point) = some (.addr .cycle false Cf) := by decide
theorem test_ctrl_store : after (.ctrlStore Cs) polling (fun t => t.run.point) = some (.addr .cycle true Cs) := by decide

/-! ## Words of the target (rules R89 to R93) -/

/-- A target with -1 in every register but $0, its next word at T. -/
def ones : State :=
  { fresh with target := { fresh.target with gpr := Vector.replicate 32 0xFFFFFFFF#32 } }

theorem test_nop : after .nop ones (fun t => (t.target.pc, readGpr t.target 5)) = some (T + 4, 0xFFFFFFFF) := by decide
theorem test_lui : after (.lui 8 0x1234) ones (fun t => (readGpr t.target 8, readGpr t.target 9))
      = some (0x12340000, 0xFFFFFFFF) := by decide
theorem test_lui_zero : after (.lui 0 0x1234) ones (fun t => readGpr t.target 0) = some 0 := by decide
theorem test_ori : after (.ori 8 0 0x8001) ones (fun t => readGpr t.target 8) = some 0x00008001 := by decide
/-- J keeps bits 31 to 28 of the address after it: from the last word of a 256 MiB region it leaves the region. -/
theorem test_j : after (.j 1) { ones with target := { ones.target with pc := 0x0FFFFFFC, npc := 0x10000000 } }
      (fun t => (t.target.pc, t.target.npc)) = some (0x10000000, 0x10000004) := by decide
/-- B(-4) at index 3 goes back to T, after its delay slot at T + 16. -/
theorem test_b : after (.b 0xFFFC) { ones with target := { ones.target with pc := T + 12, npc := T + 16 } }
      (fun t => (t.target.pc, t.target.npc)) = some (T + 16, T) := by decide

/-! ## Assembler lines (rules R95, R96) -/

theorem test_asm_q_init : assemble "q.init" = some .qInit := by decide +kernel
theorem test_asm_q_add : assemble "q.add 0xADE82000, 0xFF202000" = some (.qAdd 0xADE82000 0xFF202000) := by
  decide +kernel
theorem test_asm_mnemonic : assemble "q.add lui $8, 0x1234" = some (.qAdd 0x3C081234 0) := by decide +kernel
theorem test_asm_branch : assemble "q.add b -4" = some (.qAdd 0x1000FFFC 0) := by decide +kernel
theorem test_asm_q_li : assemble "q.li $8, 305419896, noopt" = some (.qAddLi 8 false 0x12345678) := by decide +kernel
theorem test_asm_isa : assemble "isa micromips, little" = some (.setIsa .microMips .little) := by decide +kernel
theorem test_asm_recover : assemble "recover $8, $15" = some (.recover 8 15) := by decide +kernel
theorem test_asm_no_such_register : assemble "snap $32, 5" = none := by decide +kernel
theorem test_asm_expansion :
    expandLi .mips32 9 true 0x00010001 = [.qAdd 0x3C090001 0, .qAdd 0x35290001 0] := by decide

/-! ## Steps -/

/-- An illegal record of a defined opcode (V3). -/
theorem test_step_v3 :
    (nextOf (step { fresh with inbox := [.command 0x00000013 0 0] })).map (fun t => (t.ses.status, t.inbox))
      = some (.illegal, []) := by decide
/-- The table's word of CTRL_FETCH runs as the next control word of an EXEC. -/
theorem test_fetch_word_control :
    (nextOf (step (fresh.withFetchWord 32 0x00040000))).map (fun t => t.run.point)
      = some (.addr .cycle false 0x00040000) := by decide
theorem test_table_words :
    [decodeTableWord 96 0x123456780000000000004082, decodeTableWord 32 0x3C081234, decodeTableWord 32 0x000C0000]
      = [some (.qAddLi 8 true 0), some (.lui 8 0x1234), some (.ctrlStore 0x000C0000)] := by decide

end Sys2Proof.Tests
end

