-- ==== Sys2Proof/Tests/Witness.lean ====
section
/-! SUPPORT. For every statement with hypotheses, a state and operands that meet them together; for a statement with several
clauses, one for each clause, at a boundary of its range. -/

namespace Sys2Proof.Tests

open Sys2Proof.Machine Sys2Proof.Safety

/-! ## Encodings -/

theorem test_witness_DecodeOfEncode : (Instr.ctrlFetch Cf).wf = true ∧ (Instr.recover 0 31).wf = true := by decide

theorem test_witness_EncodeOfDecode :
    decode .command [0xFFFFFFF9#32, 1, 2] = .ok (.reservedCmd9 0xFFFFFFF) ∧
      decode .command [0x00003FF7#32, 1, 2] = .ok (.recover 31 31) ∧
      decode .control [0xFFFFFFFF#32] = .ok (.ctrlStore 0xFFFFFFFF) ∧
      decode .word [0x1000FFFF#32] = .ok (.b 0xFFFF) := by decide

theorem test_witness_ControlWordsClassify :
    (0xFFF7FFFF#32).getLsbD (18 : Fin 32) = (Cf).getLsbD (18 : Fin 32) ∧
      (0xFFF7FFFF#32).getLsbD (19 : Fin 32) = (Cf).getLsbD (19 : Fin 32) := by decide

/-- The first and the last word of the window, and the last index of OUT. -/
theorem test_witness_ValidStoreAddresses :
    validStoreAddr cfg P = true ∧ validStoreAddr cfg (P + 60) = true ∧ validStoreAddr cfg (P + 64) = false ∧
      15 < cfg.paramOutWords := by decide

/-! ## The step -/

def withInbox (m : List Msg) (s : State) : State := { s with inbox := m }

theorem test_witness_StepRuns_command :
    (withInbox [.command 0x4005 0 0] fresh).run.point = .idle ∧
      decode .command [0x4005#32, 0, 0] = .ok (.setMode .batched) ∧
      decode .command [0x00000013#32, 0, 0] = .error (.unusedField 3) := by decide
/-- `polling` with an answer laid down: the scan answers. -/
def answering : State := { polling with input := { polling.input with words := [Cf], fails := [false] } }
theorem test_witness_StepRuns_control :
    answering.inbox = [] ∧ answering.run.point = .poll .cycle 2 ∧ ∃ u, scanControl 2 answering = .got Cf u :=
  ⟨rfl, rfl, _, rfl⟩
/-- A record waits while the command polls. -/
theorem test_witness_StepRuns_waiting :
    (withInbox [.command 0 0 0] answering).inbox = [.command 0 0 0] ∧
      (withInbox [.command 0 0 0] answering).run.point = .poll .cycle 2 ∧
      ∃ u, scanControl 2 (withInbox [.command 0 0 0] answering) = .got Cf u :=
  ⟨rfl, rfl, _, rfl⟩
theorem test_witness_StepRuns_word :
    (withInbox [.targetExec 0x0BC80080] polling).ses.isa = .mips32 ∧ decode .word [0x0BC80080#32] = .ok (.j 0x3C80080) := by
  decide

theorem test_witness_CommandsWait :
    (withInbox [.command 0 0 0] polling).run.point ≠ .idle ∧ fresh.inbox = [] ∧ fresh.run.point = .idle := by decide

theorem test_witness_IllegalRecords :
    Quiet (withInbox [.command 0x00000013 0 0] fresh) ∧
      (0x00000013#32 &&& unusedMask (opField 0x00000013) ≠ 0 ∧ 0x00010000#32 &&& unusedMask (opField 0x00010000) ≠ 0 ∧
      9 ≤ (opField 0x00000009).toNat ∧ 9 ≤ (opField 0xFFFFFFFF).toNat) :=
  ⟨⟨rfl, rfl, rfl, rfl, rfl⟩, by decide⟩

/-! ## Queue building -/

theorem test_witness_QAdd :
    (allocating [false]).que.error = false ∧ storeOk cfg 0 ∧ storeOk cfg P ∧ storeOk cfg (P + 60) ∧
      atCapacity cfg 0 = false ∧ (allocating [false]).input.allocs = [false] := by decide

/-- Misaligned, one word below the window and one above it (V21 to V23). -/
theorem test_witness_QAddRefuses :
    Quiet fresh ∧
      (fresh.que.error = false ∧ P + 2 ≠ 0 ∧ validStoreAddr fresh.cfg (P + 2) = false ∧
      validStoreAddr fresh.cfg 0xFF201FFC = false ∧ validStoreAddr fresh.cfg (P + 64) = false) :=
  ⟨⟨rfl, rfl, rfl, rfl, rfl⟩, by decide⟩

theorem test_witness_AnErroredQueue :
    Quiet errored ∧
      errored.que.error = true :=
  ⟨⟨rfl, rfl, rfl, rfl, rfl⟩, by decide⟩

/-- A queue of one entry, under a capacity given. -/
def oneOf (c : Config) (draws : List Bool) : State :=
  { allocating draws with cfg := c, que := { entries := [⟨1, 0⟩], storeCount := 0, error := false } }

def cfg1 : Config := { toParams := { params with queueCapacity := some 1 }, sound := by decide }
def cfg2 : Config := { toParams := { params with queueCapacity := some 2 }, sound := by decide }
def cfg3 : Config := { toParams := { params with queueCapacity := some 3 }, sound := by decide }

/-- A queue at its capacity of one. -/
def full : State := oneOf cfg1 [false]
theorem test_witness_AFailedAppend :
    Quiet (allocating [true]) ∧ (allocating [true]).que.error = false ∧ storeOk (allocating [true]).cfg P ∧
      (allocating [true]).input.allocs = true :: [] ∧
      ∃ reg optimize value, Instr.qAddLi 8 true 0x12345678 = .qAddLi reg optimize value :=
  ⟨⟨rfl, rfl, rfl, rfl, rfl⟩, by decide, by decide, by decide, _, _, _, rfl⟩
theorem test_witness_AFailedAppend_full :
    Quiet full ∧ full.que.error = false ∧ storeOk full.cfg P ∧ full.input.allocs = false :: [] ∧
      full.cfg.queueCapacity = some full.que.entries.length := ⟨⟨rfl, rfl, rfl, rfl, rfl⟩, by decide⟩

theorem test_room (c : Config) (n k : Nat) (h : c.queueCapacity = some n) (hk : 1 + k ≤ n) (draws : List Bool) :
    roomFor (oneOf c draws) k := by
  intro m hm
  obtain rfl : n = m := Option.some.inj (h.symm.trans hm)
  exact hk

/-- Room for the two words and no more, and for the one word of an optimized load. -/
theorem test_witness_QAddLi :
    (oneOf cfg3 [false, false]).que.error = false ∧ roomFor (oneOf cfg3 [false, false]) (expandLi .mips32 8 true 0x12345678).length ∧
      (oneOf cfg3 [false, false]).input.allocs = List.replicate (expandLi .mips32 8 true 0x12345678).length false ++ [] ∧
      (oneOf cfg3 [false, false]).ses.isa = .mips32 :=
  ⟨rfl, test_room cfg3 3 2 rfl (by decide) _, rfl, rfl⟩
theorem test_witness_QAddLi_one :
    roomFor (oneOf cfg2 [false]) (expandLi .mips32 8 true 0x1234).length ∧
      (oneOf cfg2 [false]).input.allocs = List.replicate (expandLi .mips32 8 true 0x1234).length false ++ [] :=
  ⟨test_room cfg2 2 1 rfl (by decide) _, rfl⟩

/-- The same under MICROMIPS: whatever MM_ENC gives, the expansion has two words here. -/
def micro : State :=
  { oneOf cfg3 [false, false] with ses := { (oneOf cfg3 [false, false]).ses with isa := .microMips } }
theorem test_witness_LoadImmediateIsItsExpansion_micromips :
    micro.ses.isa = .microMips ∧ micro.que.error = false ∧
      roomFor micro (expandLi micro.ses.isa 8 true 0x12345678).length ∧
      micro.input.allocs = List.replicate (expandLi micro.ses.isa 8 true 0x12345678).length false ++ [] :=
  ⟨rfl, rfl, test_room cfg3 3 2 rfl (by decide) [false, false], rfl⟩

/-- V29, and a capacity that the first word reaches. -/
theorem test_witness_QAddLiKeeps :
    Quiet (allocating [false, true]) ∧ (allocating [false, true]).que.error = false ∧
      roomFor (allocating [false, true]) 1 ∧ (allocating [false, true]).input.allocs = false :: true :: [] ∧
      ((0x12345678#32).extractLsb' 0 16 ≠ 0#16 ∧ (0x12345678#32).extractLsb' 16 16 ≠ 0#16) :=
  ⟨⟨rfl, rfl, rfl, rfl, rfl⟩, rfl, (by intro n hn; cases hn), rfl, by decide⟩
theorem test_witness_QAddLiKeeps_capacity :
    Quiet (oneOf cfg2 [false, false]) ∧ roomFor (oneOf cfg2 [false, false]) 1 ∧
      (oneOf cfg2 [false, false]).input.allocs = false :: false :: [] ∧
      (oneOf cfg2 [false, false]).cfg.queueCapacity = some ((oneOf cfg2 [false, false]).que.entries.length + 1) :=
  ⟨⟨rfl, rfl, rfl, rfl, rfl⟩, test_room cfg2 2 1 rfl (by decide) _, rfl, rfl⟩

theorem test_witness_LoadImmediateLoads : fresh.ses.isa = .mips32 := by decide

/-! ## Session commands -/

theorem test_witness_SessionRecords :
    0x00004005#32 &&& 0xFFFFBFFF#32 = 5#32 ∧ 0x0000C008#32 &&& 0xFFFF3FFF#32 = 8#32 ∧
      0x000001F6#32 &&& 0xFFFFFE0F#32 = 6#32 := by decide

theorem test_witness_SetSnapshot :
    Quiet fresh ∧
      (7 : RegNum) ≠ 8 ∧ (11 : RegNum) ≠ 8 ∧ (11 : RegNum) ≠ 9 ∧ (11 : RegNum) ≠ 10 ∧ (11 : RegNum) ≠ 15 :=
  ⟨⟨rfl, rfl, rfl, rfl, rfl⟩, by decide⟩

/-- Only register 10 is valid, and the range stops at 9. -/
theorem test_witness_RecoverWithNothing :
    Quiet one ∧ (8 : RegNum) < 9 ∧ (0 : RegNum) ≤ 9 ∧
      ∀ r, (snapGet one.ses.snap r).valid = true → ¬ ((0 : RegNum) ≤ scratchNumber r ∧ scratchNumber r ≤ 9) := by
  refine ⟨⟨rfl, rfl, rfl, rfl, rfl⟩, by decide, by decide, fun r => ?_⟩
  cases r <;> decide

theorem test_witness_RecoveryRestores :
    one.ses.isa = .mips32 ∧ one.target.pc = one.cfg.textBase ∧ one.target.npc = one.cfg.textBase + 4 ∧
      recoveryProgram .mips32 one.ses.snap 10 10 ≠ [] := by decide

theorem test_witness_RecoverRestores :
    Quiet one ∧
      (10 : RegNum) ≤ 10 ∧ recoveryProgram one.ses.isa one.ses.snap 10 10 ≠ [] ∧ isFetch one.cfg Cf ∧
      one.input.words = straightWords one.cfg Cf (recoveryProgram one.ses.isa one.ses.snap 10 10).length ++ [] ∧
      one.input.fails = List.replicate 9 false ++ List.replicate 31 false :=
  ⟨⟨rfl, rfl, rfl, rfl, rfl⟩, by decide⟩

/-- The second access is a store. -/
def feeding : State := ready cfg .sync storing [Cf, Cs]
theorem test_witness_FeedUnchecked :
    Quiet feeding ∧ (∀ c ∈ [Cf, Cs], isPending feeding.cfg c) ∧
      (feeding.que.error = false ∧ feeding.que.entries ≠ [] ∧ [Cf, Cs].length = feeding.que.entries.length ∧
      feeding.input.words = [Cf, Cs] ++ [] ∧
      feeding.input.fails = List.replicate ([Cf, Cs].length + 1) false ++ List.replicate 37 false) := by
  refine ⟨⟨rfl, rfl, rfl, rfl, rfl⟩, ?_, by decide⟩
  intro c hc
  rcases List.mem_cons.1 hc with rfl | hc
  · decide
  · rw [List.mem_singleton.1 hc]; decide

theorem test_witness_AnEmptyQueue :
    Quiet fresh ∧
      fresh.que.error = false ∧ fresh.que.entries = [] :=
  ⟨⟨rfl, rfl, rfl, rfl, rfl⟩, by decide⟩

/-! ## One cycle of the synchronous executor -/

/-- A running EXEC of `storing` that waits for the address of an access, with E as given. -/
def atAddress (isStore : Bool) (a : Word) (e : Executor) : State :=
  { polling with
    exe := e
    run := { polling.run with point := .addr .cycle isStore (if isStore then Cs else Cf) }
    input := { polling.input with words := [a], fails := [false] } }

theorem test_awaits (isStore : Bool) (a : Word) (e : Executor) :
    AwaitsAddress (atAddress isStore a e) .cycle isStore (if isStore then Cs else Cf) a := ⟨rfl, rfl, rfl, rfl, rfl⟩

def executing : Executor := { Executor.reset with phase := .executing }
def finalCheck : Executor := { Executor.reset with phase := .finalCheck, codeCount := 2, maxStoreAddr := P }

/-- The first and the last entry. -/
theorem test_witness_AMatchingFetch :
    let s := atAddress false T executing
    AwaitsAddress s .cycle false Cf T ∧ s.exe.phase = .executing ∧ s.exe.pass = false ∧
      s.run.prog[s.exe.codeCount]? = some ⟨0xADE82000, P⟩ ∧
      T = s.cfg.textBase + BitVec.ofNat 32 (4 * s.exe.codeCount) :=
  ⟨test_awaits false _ _, by decide⟩
theorem test_witness_AMatchingFetch_last :
    let s := atAddress false (T + 4) { executing with codeCount := 1 }
    AwaitsAddress s .cycle false Cf (T + 4) ∧ s.exe.phase = .executing ∧ s.exe.pass = false ∧
      s.run.prog[s.exe.codeCount]? = some ⟨0, 0⟩ ∧
      T + 4 = s.cfg.textBase + BitVec.ofNat 32 (4 * s.exe.codeCount) :=
  ⟨test_awaits false _ _, by decide⟩

theorem test_witness_TheResync :
    let s := atAddress false T { executing with codeCount := 1 }
    AwaitsAddress s .cycle false Cf T ∧ s.exe.phase = .executing ∧ s.exe.codeCount = 1 ∧ T = s.cfg.textBase ∧
      s.exe.restartCount = 0 ∧ s.exe.resyncUsed = false :=
  ⟨test_awaits false _ _, by decide⟩

/-- With budget left, with none left, and outside a RESTART_WINDOW of 0 entries; and the resync's form with the resync
spent. -/
theorem test_witness_AFetchMismatch :
    let s := atAddress false (T + 8) executing
    AwaitsAddress s .cycle false Cf (T + 8) ∧ s.exe.phase = .executing ∧
      T + 8 ≠ s.cfg.textBase + BitVec.ofNat 32 (4 * s.exe.codeCount) ∧
      ¬ (s.exe.codeCount = 1 ∧ T + 8 = s.cfg.textBase ∧ s.exe.restartCount = 0 ∧ s.exe.resyncUsed = false) ∧
      inRestartWindow s.cfg s.exe.codeCount = true ∧ ¬ s.cfg.restartLimit ≤ s.exe.restartCount ∧
      s.cfg.restartLimit ≤ ({ s.exe with restartCount := 3 } : Executor).restartCount ∧
      inRestartWindow { toParams := { params with restartWindow := some 0 }, sound := by decide } 0 = false :=
  ⟨test_awaits false _ _, by decide⟩
theorem test_witness_AFetchMismatch_resyncUsed :
    let s := atAddress false T { executing with codeCount := 1, resyncUsed := true }
    AwaitsAddress s .cycle false Cf T ∧ s.exe.phase = .executing ∧
      T ≠ s.cfg.textBase + BitVec.ofNat 32 (4 * s.exe.codeCount) ∧
      ¬ (s.exe.codeCount = 1 ∧ T = s.cfg.textBase ∧ s.exe.restartCount = 0 ∧ s.exe.resyncUsed = false) :=
  ⟨test_awaits false _ _, by decide⟩

/-- No store pending. -/
theorem test_witness_BadStores_unexpected :
    let s := atAddress true P executing
    AwaitsAddress s .cycle true Cs P ∧ s.exe.storePending = 0 :=
  ⟨test_awaits true _ _, by decide⟩

def oneStore : Executor := { executing with codeCount := 1, storePending := 1, maxStoreAddr := P + 4 }

/-- One word below the window, and one above the highest address. -/
theorem test_witness_BadStores_range :
    let s := atAddress true 0xFF201FFC oneStore
    AwaitsAddress s .cycle true Cs 0xFF201FFC ∧ s.exe.storePending ≠ 0 ∧
      (0xFF201FFC#32).toNat < s.cfg.paramOutBase.toNat :=
  ⟨test_awaits true _ _, by decide⟩
theorem test_witness_BadStores_above :
    let s := atAddress true (P + 8) oneStore
    AwaitsAddress s .cycle true Cs (P + 8) ∧ s.exe.storePending ≠ 0 ∧ s.exe.maxStoreAddr.toNat < (P + 8).toNat :=
  ⟨test_awaits true _ _, by decide⟩
theorem test_witness_BadStores_misaligned :
    let s := atAddress true (P + 2) oneStore
    AwaitsAddress s .cycle true Cs (P + 2) ∧ s.exe.storePending ≠ 0 ∧ s.cfg.paramOutBase.toNat ≤ (P + 2).toNat ∧
      (P + 2).toNat ≤ s.exe.maxStoreAddr.toNat ∧ (P + 2).toNat % 4 ≠ 0 :=
  ⟨test_awaits true _ _, by decide⟩

/-- The highest address accepted, before the pass and after it. -/
theorem test_witness_AnAcceptedStore :
    let s := atAddress true (P + 4) oneStore
    AwaitsAddress s .cycle true Cs (P + 4) ∧ s.exe.phase ≠ .restarting ∧ s.exe.storePending ≠ 0 ∧
      s.cfg.paramOutBase.toNat ≤ (P + 4).toNat ∧ (P + 4).toNat ≤ s.exe.maxStoreAddr.toNat ∧ (P + 4).toNat % 4 = 0 :=
  ⟨test_awaits true _ _, by decide⟩
theorem test_witness_AnAcceptedStore_passed :
    let s := atAddress true P { finalCheck with storePending := 1, pass := true }
    AwaitsAddress s .cycle true Cs P ∧ s.exe.phase ≠ .restarting ∧ s.exe.storePending ≠ 0 ∧
      s.cfg.paramOutBase.toNat ≤ P.toNat ∧ P.toNat ≤ s.exe.maxStoreAddr.toNat ∧ P.toNat % 4 = 0 ∧
      (s.exe.pass = true ∧ s.exe.storePending = 1) :=
  ⟨test_awaits true _ _, by decide⟩

/-- DRAIN, with the CAPTURE of a store after the pass still queued (V40), and with nothing deferred. -/
def draining (pending : Option Deferred) (queued : List QueuedScan) (words : List Word) : State :=
  { polling with
    exe := { finalCheck with pass := true, pending := pending }
    run := { polling.run with point := .drain }
    port := { polling.port with queued := queued }
    input := { polling.input with words := words, fails := [false] } }
theorem test_witness_AnAcceptedStore_drain :
    let s := draining (some ⟨P, 3⟩) [.keep 3, .discard] [0x5A5A]
    s.inbox = [] ∧ s.run.point = .drain ∧ s.run.ctx = some .execSync ∧ s.exe.pending = some ⟨P, 3⟩ ∧
      s.port.queued = [.keep 3, .discard] ∧ s.input.fails = false :: [] ∧ s.input.words = 0x5A5A :: [] := by decide
theorem test_witness_AnAcceptedStore_drainEmpty :
    let s := draining none [] []
    s.inbox = [] ∧ s.run.point = .drain ∧ s.run.ctx = some .execSync ∧ s.exe.pending = none ∧ s.port.queued = [] ∧
      s.input.fails = false :: [] := by decide

theorem test_witness_ReturnsToText :
    let s := atAddress false T finalCheck
    AwaitsAddress s .cycle false Cf s.cfg.textBase ∧ s.exe.phase = .finalCheck ∧ s.exe.pass = false ∧
      s.exe.storePending = 0 :=
  ⟨test_awaits false _ _, by decide⟩
theorem test_witness_ReturnsToText_storesLeft :
    let s := atAddress false T { finalCheck with storePending := 1 }
    AwaitsAddress s .cycle false Cf s.cfg.textBase ∧ s.exe.phase = .finalCheck ∧ s.exe.pass = false ∧
      s.exe.storePending ≠ 0 :=
  ⟨test_awaits false _ _, by decide⟩
theorem test_witness_ReturnsToText_second :
    let s := atAddress false T { finalCheck with storePending := 1, pass := true, codeCount := 1 }
    AwaitsAddress s .cycle false Cf s.cfg.textBase ∧ s.exe.phase = .finalCheck ∧ s.exe.pass = true :=
  ⟨test_awaits false _ _, by decide⟩

/-- Another address. -/
theorem test_witness_Padding_elsewhere :
    let s := atAddress false (T + 4) finalCheck
    AwaitsAddress s .cycle false Cf (T + 4) ∧ s.exe.phase = .finalCheck ∧ T + 4 ≠ s.cfg.textBase ∧
      T + 4 ≠ s.cfg.textBase + BitVec.ofNat 32 (4 * s.exe.codeCount) :=
  ⟨test_awaits false _ _, by decide⟩
/-- The last pad before the return, and one too many. -/
theorem test_witness_Padding_before :
    let s := atAddress false (T + 12) { finalCheck with codeCount := 3 }
    AwaitsAddress s .cycle false Cf (T + 12) ∧ s.exe.phase = .finalCheck ∧ T + 12 ≠ s.cfg.textBase ∧
      T + 12 = s.cfg.textBase + BitVec.ofNat 32 (4 * s.exe.codeCount) ∧ s.exe.pass = false ∧
      s.exe.codeCount - s.run.prog.length ≤ s.cfg.preReturnPadLimit :=
  ⟨test_awaits false _ _, by decide⟩
theorem test_witness_Padding_tooManyBefore :
    let s := atAddress false (T + 16) { finalCheck with codeCount := 4 }
    AwaitsAddress s .cycle false Cf (T + 16) ∧ s.exe.phase = .finalCheck ∧ T + 16 ≠ s.cfg.textBase ∧
      T + 16 = s.cfg.textBase + BitVec.ofNat 32 (4 * s.exe.codeCount) ∧ s.exe.pass = false ∧
      s.cfg.preReturnPadLimit < s.exe.codeCount - s.run.prog.length :=
  ⟨test_awaits false _ _, by decide⟩
/-- The last pad after the return, and one too many. -/
theorem test_witness_Padding_after :
    let s := atAddress false (T + 40) { finalCheck with codeCount := 10, pass := true, storePending := 1 }
    AwaitsAddress s .cycle false Cf (T + 40) ∧ s.exe.phase = .finalCheck ∧ T + 40 ≠ s.cfg.textBase ∧
      T + 40 = s.cfg.textBase + BitVec.ofNat 32 (4 * s.exe.codeCount) ∧
      ¬ (s.exe.pass = true ∧ s.exe.storePending = 0) ∧ s.exe.pass = true ∧
      s.exe.codeCount ≤ s.cfg.postReturnPadLimit :=
  ⟨test_awaits false _ _, by decide⟩
theorem test_witness_Padding_tooManyAfter :
    let s := atAddress false (T + 44) { finalCheck with codeCount := 11, pass := true, storePending := 1 }
    AwaitsAddress s .cycle false Cf (T + 44) ∧ s.exe.phase = .finalCheck ∧ T + 44 ≠ s.cfg.textBase ∧
      T + 44 = s.cfg.textBase + BitVec.ofNat 32 (4 * s.exe.codeCount) ∧ s.exe.pass = true ∧
      s.cfg.postReturnPadLimit < s.exe.codeCount :=
  ⟨test_awaits false _ _, by decide⟩

/-- The last poll but one and the last; a cycle and a round of the extra loop; the feeds of FEED_UNCHECKED and of FLUSH, its last
word among them; no control scan outstanding. -/
theorem test_witness_CapturedControlWords :
    let at_ (p : Point) : State := { polling with run := { polling.run with point := p } }
    (polling.run.point = .poll .cycle 2 ∧ 2 + 1 < polling.cfg.pollLimit ∧ polling.cfg.pollLimit ≤ 3 + 1) ∧
      (at_ (.poll (.feed 1) 0)).run.point = .poll (.feed 1) 0 ∧
      ((at_ (.poll (.flush 3) 0)).run.point = .poll (.flush 3) 0 ∧ 3 + 1 < cfg.flushSeq.length) ∧
      ((at_ (.poll (.flush 4) 0)).run.point = .poll (.flush 4) 0 ∧ ¬ 4 + 1 < cfg.flushSeq.length) ∧
      (at_ (.poll (.extra 1) 0)).run.point = .poll (.extra 1) 0 ∧
      fresh.run.point = .idle := by decide
theorem test_witness_CapturedControlWords_none :
    ∀ w polls, ({ polling with run := { polling.run with point := .drain } } : State).run.point ≠ .poll w polls := by
  intro w polls h
  cases h
/-- The rounds of the extra loop: at TEXT_BASE, elsewhere, and the last one. -/
theorem test_witness_ExtraRounds (j : Nat) (a : Word) :
    let s : State :=
      { polling with
        exe := { executing with phase := .restarting, lastMismatch := some .desync }
        run := { polling.run with point := .addr (.extra j) false Cf }
        input := { polling.input with words := [a], fails := [false] } }
    AwaitsAddress s (.extra j) false Cf a ∧ cfg.flushExtraMax = 2 := ⟨⟨rfl, rfl, rfl, rfl, rfl⟩, rfl⟩

def failing (ctx : Ctx) : State :=
  { polling with run := { polling.run with ctx := some ctx }, input := { polling.input with fails := [true] } }
theorem test_witness_TransportFailures :
    (failing .execSync).inbox = [] ∧ (failing .execSync).run.point ≠ .idle ∧
      (failing .execSync).input.fails.head? = some true ∧ (failing .execSync).run.ctx = some .execSync ∧
      (failing .execBatched).run.ctx = some .execBatched ∧ (failing .feed).run.ctx = some .feed := by decide

/-! ## Whole runs -/

/-- The accesses of `storing` under lag 0 and under lag 1. -/
def accesses : List (Slot × Record) :=
  [(⟨false, 0⟩, ⟨Cf, 0, T⟩), (⟨true, 0⟩, ⟨Cs, 0x5A5A, P⟩), (⟨false, 1⟩, ⟨Cf, 0, T + 4⟩)]
def accessesLag : List (Slot × Record) :=
  [(⟨false, 0⟩, ⟨Cf, 0, T⟩), (⟨false, 1⟩, ⟨Cf, 0, T + 4⟩), (⟨true, 0⟩, ⟨Cs, 0x5A5A, P⟩)]

theorem test_follows_plan : FollowsPlan cfg storing accesses := ⟨by decide, by decide⟩
theorem test_follows_plan_lag : FollowsPlan cfgLag storing accessesLag := ⟨by decide, by decide⟩

theorem test_queue_inv (c : Config) (h : validStoreAddr c P = true) (k : c.queueCapacity = none) (ws : List Word) :
    QueueInv (ready c .sync storing ws) where
  count := rfl
  addrs := by
    intro e he
    simp only [ready, storing, List.mem_cons, List.not_mem_nil, or_false] at he
    rcases he with rfl | rfl
    · exact .inr h
    · exact .inl rfl
  room := by intro n hn; simp only [ready, State.resetWith, k] at hn; cases hn

theorem test_witness_SyncExec :
    let s := ready cfg .sync storing (accesses.flatMap accessWords ++ [Cf, T])
    Quiet s ∧ QueueInv s ∧ FollowsPlan s.cfg s.que.entries accesses ∧
      (s.que.error = false ∧ s.ses.mode = .sync ∧ s.que.entries ≠ [] ∧
      (s.cfg.storeScanLag = .one → lastEntryPlain s.que.entries) ∧ isFetch s.cfg Cf ∧
      s.input.words = accesses.flatMap accessWords ++ Cf :: s.cfg.textBase :: [] ∧
      s.input.fails = List.replicate (2 * (accesses.length + 1) + 1) false ++ List.replicate 31 false) :=
  ⟨⟨rfl, rfl, rfl, rfl, rfl⟩, test_queue_inv cfg (by decide) rfl _, test_follows_plan, by decide⟩
theorem test_witness_SyncExec_lag :
    let s := ready cfgLag .sync storing (accessesLag.flatMap accessWords ++ [Cf, T])
    Quiet s ∧ QueueInv s ∧ FollowsPlan s.cfg s.que.entries accessesLag ∧
      (s.que.error = false ∧ s.ses.mode = .sync ∧ s.que.entries ≠ [] ∧ s.cfg.storeScanLag = .one ∧
      lastEntryPlain s.que.entries ∧ isFetch s.cfg Cf ∧
      s.input.words = accessesLag.flatMap accessWords ++ Cf :: s.cfg.textBase :: [] ∧
      s.input.fails = List.replicate (2 * (accessesLag.length + 1) + 1) false ++ List.replicate 31 false) :=
  ⟨⟨rfl, rfl, rfl, rfl, rfl⟩, test_queue_inv cfgLag (by decide) rfl _, test_follows_plan_lag, by decide⟩

/-- A batched EXEC whose records its plan expects. -/
def batched : State :=
  let s := ready cfgLag .batched storing []
  { s with input := { s.input with records := accessesLag.map Prod.snd } }
theorem test_witness_BatchedExec :
    Quiet batched ∧
      batched.que.error = false ∧ batched.ses.mode = .batched ∧ batched.que.entries ≠ [] ∧
      batched.input.records = accessesLag.map Prod.snd ++ [] ∧
      batched.input.fails = false :: List.replicate 39 false :=
  ⟨⟨rfl, rfl, rfl, rfl, rfl⟩, by decide⟩
theorem test_witness_BatchedAndSync :
    Quiet batched ∧ QueueInv batched ∧
      (nextOf (exec .exec batched)).map (fun t => (t.ses.status, t.ses.mode)) = some (.ok, .batched) ∧
      batched.input.records.length = (buildSlots batched.cfg batched.que.entries).length ∧
      lastEntryPlain batched.que.entries ∧ isFetch batched.cfg Cf ∧ 2 ≤ batched.cfg.preReturnPadLimit + 1 ∧
      batched.que.entries.length + 2 ≤ 2 ^ 30 :=
  ⟨⟨rfl, rfl, rfl, rfl, rfl⟩,
    ⟨rfl, (test_queue_inv cfgLag (by decide) rfl []).addrs, (test_queue_inv cfgLag (by decide) rfl []).room⟩,
    by decide +kernel⟩

def deaf : State := ready cfg .sync storing [0, 0, 0, 0]
theorem test_witness_ExecFails :
    Quiet deaf ∧ (∀ c ∈ List.replicate 4 (0 : Word), ¬ isPending deaf.cfg c) ∧
      (noSnapshot deaf ∧ deaf.que.error = false ∧ deaf.ses.mode = .sync ∧ deaf.que.entries ≠ [] ∧
      (List.replicate 4 (0 : Word)).length = deaf.cfg.pollLimit ∧ deaf.input.words = List.replicate 4 0 ++ [] ∧
      deaf.input.fails = List.replicate deaf.cfg.pollLimit false ++ List.replicate 36 false) := by
  refine ⟨⟨rfl, rfl, rfl, rfl, rfl⟩, ?_, by decide⟩
  intro c hc
  rw [List.eq_of_mem_replicate hc]
  decide

/-- Three attempts and a last one: the target of V37, a mismatch after the first entry, and two returns to TEXT_BASE where
entry 1 is due, which after the first attempt are not of the resync's form. -/
def attempts : List Attempt := [⟨0, 0xFF200300, 0xFF200300⟩, ⟨1, T + 8, T⟩, ⟨1, T, T⟩]
def final : Attempt := ⟨1, T, T⟩
def strayWords : List Word :=
  (attempts.flatMap fun x => attemptWords cfg Cf x ++ flushAnswers cfg Cf x) ++ attemptWords cfg Cf final
def straying : State :=
  let s := ready cfg .sync storing strayWords
  { s with input := { s.input with fails := List.replicate strayWords.length false } }
theorem test_witness_Restarts :
    Quiet straying ∧
      (noSnapshot straying ∧ straying.que.error = false ∧ straying.ses.mode = .sync ∧ isFetch straying.cfg Cf ∧
      attempts.length = straying.cfg.restartLimit ∧
      (∀ x ∈ attempts ++ [final], x.fetched < straying.que.entries.length ∧
        inRestartWindow straying.cfg x.fetched = true ∧ x.stray ≠ textAddr straying.cfg x.fetched)) ∧
      ∀ x, (attempts ++ [final]).head? = some x → ¬ (x.fetched = 1 ∧ x.stray = straying.cfg.textBase) := by
  refine ⟨⟨rfl, rfl, rfl, rfl, rfl⟩, by decide, ?_⟩
  intro x hx
  cases hx
  decide
theorem test_witness_Restarts_answers :
    straying.input.words = strayWords ++ [] ∧ straying.input.fails = List.replicate strayWords.length false ++ [] := by
  decide

theorem test_witness_EveryCommandRuns : Instr.exec.surface = .command ∧ straying.run.point = .idle := ⟨rfl, rfl⟩

/-! ## Errors and recovery -/

theorem test_witness_RecoveryRuns :
    (failing (.exitRecovery .desync)).run.ctx = some (.exitRecovery .desync) ∧
      (failing (.recover 8 15)).run.ctx = some (.recover 8 15) := by decide

/-- A batch whose one record has no access pending. -/
def batchFails : State :=
  let s := ready cfg .batched [⟨0, 0⟩] []
  { s with input := { s.input with records := [⟨0x8000, 0, T⟩] } }
theorem test_witness_AFailedBatch :
    Quiet batchFails ∧
      batchFails.que.error = false ∧ batchFails.que.entries ≠ [] ∧ batchFails.ses.mode = .batched ∧
      (nextOf (exec .exec batchFails)).map (fun t => t.ses.status) = some .desync :=
  ⟨⟨rfl, rfl, rfl, rfl, rfl⟩, by decide +kernel⟩
/-- The second record of `storing` under lag 0, the store's, is the first to break its slot. -/
def batchBreaks : State :=
  let s := ready cfg .batched storing []
  { s with input := { s.input with records := [⟨Cf, 0, T⟩, ⟨Cs, 1, P + 4⟩, ⟨0, 0, 0⟩] } }
theorem test_witness_ABrokenSlot :
    Quiet batchBreaks ∧ SlotPasses cfg storing ⟨false, 0⟩ ⟨Cf, 0, T⟩ ∧
      SlotBreaks cfg storing ⟨true, 0⟩ ⟨Cs, 1, P + 4⟩ .desync .batchStoreAddr ∧
      (batchBreaks.que.error = false ∧ batchBreaks.ses.mode = .batched ∧
      buildSlots batchBreaks.cfg batchBreaks.que.entries = [⟨false, 0⟩] ++ ⟨true, 0⟩ :: [⟨false, 1⟩] ∧
      batchBreaks.input.records = [⟨Cf, 0, T⟩] ++ ⟨Cs, 1, P + 4⟩ :: [⟨0, 0, 0⟩] ∧
      batchBreaks.input.fails = false :: List.replicate 39 false) :=
  ⟨⟨rfl, rfl, rfl, rfl, rfl⟩, ⟨by decide, by decide⟩, .storeAddr rfl (by decide) (by decide), by decide⟩
/-- A record for each of the other checks. -/
theorem test_witness_ABrokenSlot_kinds :
    SlotBreaks cfg storing ⟨true, 0⟩ ⟨0x8000, 1, P⟩ .desync .batchNotPending ∧
      SlotBreaks cfg storing ⟨true, 0⟩ ⟨Cf, 1, P⟩ .desync .batchDirStoreExpected ∧
      SlotBreaks cfg storing ⟨false, 1⟩ ⟨Cs, 1, T + 4⟩ .desync .batchDirFetchExpected ∧
      SlotBreaks cfg storing ⟨false, 1⟩ ⟨Cf, 1, T⟩ .unexpectedReturn .batchReturn ∧
      SlotBreaks cfg storing ⟨false, 1⟩ ⟨Cf, 1, T + 8⟩ .desync .batchFetchAddr :=
  ⟨.notPending (by decide), .fetchForStore rfl (by decide), .storeForFetch rfl (by decide),
    .earlyReturn rfl (by decide) (by decide) rfl, .fetchAddr rfl (by decide) (by decide) (by decide)⟩

/-- Index 1 lies above the one flagged entry's, index 0. -/
theorem test_witness_ExecStores :
    Quiet batched ∧
      (nextOf (exec .exec batched)).isSome = true ∧
      ∀ e ∈ batched.que.entries, e.addr ≠ 0 → outIndex batched.cfg e.addr < 1 :=
  ⟨⟨rfl, rfl, rfl, rfl, rfl⟩, by decide +kernel⟩

/-! ## Whole-machine rules -/

theorem test_witness_Footprint :
    Quiet batched ∧
      Instr.exec.surface = .command ∧ (nextOf (exec .exec batched)).isSome = true :=
  ⟨⟨rfl, rfl, rfl, rfl, rfl⟩, by decide +kernel⟩

theorem test_witness_OnlySetMode :
    (nextOf (exec (.setMode .batched) fresh)).map (fun t => t.ses.mode) = some .batched ∧ fresh.ses.mode = .sync ∧
      (nextOf (step { answering with ses := { answering.ses with mode := .batched } })).map (fun t => t.ses.mode)
        = some .batched ∧ answering.run.point ≠ .idle := by decide +kernel

/-- The invariant holds of a running EXEC, which takes a step. -/
theorem test_witness_EveryStep_inv : StepInv answering where
  queue :=
    { count := rfl
      addrs := (test_queue_inv cfg (by decide) rfl []).addrs
      room := (test_queue_inv cfg (by decide) rfl []).room }
  out := { wf := ⟨List.Pairwise.nil, by intro c hc; cases hc⟩, inside := by intro c hc; cases hc }
  run :=
    { point := ⟨rfl, .inl ⟨rfl, by decide, rfl⟩⟩
      prog := (test_queue_inv cfg (by decide) rfl []).addrs
      maxStore := .inl rfl
      pending := by intro d hd; cases hd
      owner := fun _ => rfl
      recovery := by intro h; cases h
      budget := by decide }
  log := rfl
theorem test_witness_EveryStep : (nextOf (step answering)).map (fun t => t.run.point) = some (.addr .cycle false Cf) := by
  decide

theorem test_witness_StoreCount :
    answering.que.storeCount = answering.que.entries.countP (fun e => e.addr != 0#32) ∧
      (nextOf (step answering)).isSome = true := by decide

theorem test_witness_EmittedWords : 32767 < 32768 := by decide

theorem test_witness_OtherTargetWords :
    (withInbox [.targetExec 0xADE82000] fresh).ses.isa = .mips32 ∧
      decode .word [0xADE82000#32] = .error .notAnEmittedWord ∧
      ({ withInbox [.targetExec 0] fresh with ses := { fresh.ses with isa := .microMips } } : State).inbox
        = [.targetExec 0] := by decide

end Sys2Proof.Tests
end

section
/-! SUPPORT. What further operations leave alone, and the equations of `step`, one for each place of fetch. -/

namespace Sys2Proof.Proofs

open Sys2Proof.Machine Sys2Proof.Safety

/-! ## Operations of a run -/

theorem resolvePending_exe (s : State) : (resolvePending s).exe = { s.exe with pending := none } := by
  unfold resolvePending
  split
  case h_1 noRead => rw [← noRead]
  case h_2 => rfl

theorem resolvePending_run (s : State) : (resolvePending s).run = s.run := by
  unfold resolvePending; split <;> rfl

theorem replay_run (log : List (Slot × Record)) (stage : List (Nat × Word)) (s : State) :
    (replay log stage s).2.2.run = s.run := by
  induction log generalizing stage s with
  | nil => rfl
  | cons p rest ih =>
    unfold replay
    simp only
    split
    · rfl
    · split <;> exact ih ..

theorem issueSlots_plan (slots : List Slot) (s : State) : (issueSlots slots s).1.map Prod.fst = slots := by
  induction slots generalizing s with
  | nil => rfl
  | cons slot slots ih => exact congrArg (slot :: ·) (ih _)

/-! ## APPEND -/

/-- What APPEND leaves as it was: all but Q and the inputs (rule R113). -/
structure AppendFrame (s t : State) : Prop where
  cfg : t.cfg = s.cfg
  ses : t.ses = s.ses
  exe : t.exe = s.exe
  out : t.out = s.out
  log : t.log = s.log
  port : t.port = s.port
  run : t.run = s.run
  inbox : t.inbox = s.inbox
  target : t.target = s.target

theorem AppendFrame.trans {s t u : State} (h : AppendFrame s t) (k : AppendFrame t u) : AppendFrame s u :=
  ⟨k.cfg.trans h.cfg, k.ses.trans h.ses, k.exe.trans h.exe, k.out.trans h.out, k.log.trans h.log, k.port.trans h.port,
    k.run.trans h.run, k.inbox.trans h.inbox, k.target.trans h.target⟩

theorem appendFrame_appendEntry (e : Entry) (s : State) : AppendFrame s (appendEntry e s).2 := by
  have f := portOnly_drawAlloc s
  have frame (q : Queue) : AppendFrame s ((drawAlloc s).2.withQue q) :=
    ⟨f.cfg, f.ses, f.exe, f.out, f.log, drawAlloc_port s, f.run, f.inbox, f.target⟩
  unfold appendEntry
  simp only
  split <;> exact frame _

theorem appendFrame_appendAll (es : List Entry) (s : State) : AppendFrame s (appendAll es s).2 := by
  induction es generalizing s with
  | nil => exact ⟨rfl, rfl, rfl, rfl, rfl, rfl, rfl, rfl, rfl⟩
  | cons e es ih =>
    have first := appendFrame_appendEntry e s
    unfold appendAll
    split
    case h_1 t h => rw [h] at first; exact first.trans (ih t)
    case h_2 t h => rw [h] at first; exact first

/-! ## Starts of commands -/

theorem runFrame_startExec (s : State) : RunFrame s (startExec s) := by
  unfold startExec
  split
  · exact runFrame_errorExit ..
  · split
    · exact runFrame_withStatus ..
    · split
      · exact runFrame_startSync ..
      · exact runFrame_startBatched s

theorem runFrame_startFeed (s : State) : RunFrame s (startFeed s) := by
  unfold startFeed
  split
  · exact runFrame_errorExit ..
  · split
    · exact runFrame_withStatus ..
    · exact ((runFrame_withPhase s _).trans (runFrame_withRun _ _)).trans (runFrame_feedFrom _ _)

theorem runFrame_startRecover (first last : RegNum) (s : State) : RunFrame s (startRecover first last s) := by
  unfold startRecover
  split
  · exact runFrame_errorExit ..
  · exact runFrame_startRecovery _ _ _ (runFrame_withStatus ..)

/-! ## What a step runs -/

/-- A command record is accepted while no command runs (rules R8, R266). -/
theorem step_command {s : State} {w0 w1 w2 : Word} {rest : List Msg} (inbox : s.inbox = .command w0 w1 w2 :: rest)
    (idle : s.run.point = .idle) : step s = stepCommand w0 w1 w2 (s.withInbox rest) := by
  simp only [step, stepNext, inbox, idle, if_true]

/-- A word for the target is the target's move (log entry 12). -/
theorem step_targetExec {s : State} {w : Word} {rest : List Msg} (inbox : s.inbox = .targetExec w :: rest) :
    step s = stepTarget w (s.withInbox rest) := by
  simp only [step, stepNext, inbox]

/-- The running command moves where no word waits for the target and no command record is accepted (rules R8, R266). -/
theorem step_running {s : State}
    (h : s.inbox = [] ∨ (s.run.point ≠ .idle ∧ ∃ w0 w1 w2 rest, s.inbox = .command w0 w1 w2 :: rest)) :
    step s = stepRunning s := by
  rcases h with inbox | ⟨running, w0, w1, w2, rest, inbox⟩
  · simp only [step, stepNext, inbox]
  · simp only [step, stepNext, inbox, if_neg running]

/-- What a step runs: the command that a record stands for, the word that the target executes, or the running command. -/
theorem step_cases (s : State) :
    (∃ w0 w1 w2 rest, s.inbox = .command w0 w1 w2 :: rest ∧ s.run.point = .idle ∧
      step s = stepCommand w0 w1 w2 (s.withInbox rest)) ∨
    (∃ w rest, s.inbox = .targetExec w :: rest ∧ step s = stepTarget w (s.withInbox rest)) ∨
    step s = .next (tick s) := by
  cases inbox : s.inbox with
  | nil => exact .inr (.inr ((step_running (.inl inbox)).trans (stepRunning_eq_tick s)))
  | cons m rest =>
    cases m with
    | targetExec w => exact .inr (.inl ⟨w, rest, rfl, step_targetExec inbox⟩)
    | command w0 w1 w2 =>
      by_cases idle : s.run.point = .idle
      · exact .inl ⟨w0, w1, w2, rest, rfl, idle, step_command inbox idle⟩
      · exact .inr (.inr ((step_running (.inr ⟨idle, w0, w1, w2, rest, inbox⟩)).trans (stepRunning_eq_tick s)))

end Sys2Proof.Proofs
end

section
/-! SUPPORT. Every command runs to its end (rules R8, R266, R305): a bound on the scan answers a running command still waits for,
which every micro-step lowers (log entry 8). -/

namespace Sys2Proof.Proofs

open Sys2Proof.Machine Sys2Proof.Safety

/-! ## A bound on the scan answers a running command still waits for -/

/-- The scans of one access: its polls and its address (rules R143, R144). -/
def accessScans (cfg : Config) : Nat := cfg.pollLimit + 2

/-- The accesses of one attempt at a program of `n` entries, and of the FLUSH after it (rules R152, R183, R184). -/
def attemptAccesses (cfg : Config) (n : Nat) : Nat :=
  2 * n + cfg.preReturnPadLimit + cfg.postReturnPadLimit + cfg.flushSeq.length + cfg.flushExtraMax + 8

/-- The attempts still allowed: the restart budget that is left, and the resync (rules R173, R178). -/
def attemptsLeft (cfg : Config) (e : Executor) : Nat :=
  (cfg.restartLimit - e.restartCount) + if e.resyncUsed then 0 else 1

/-- The accesses of an attempt at a program of `n` entries after the one awaited: a fetch and perhaps a store for each entry to
feed, the stores pending, the padding on both sides of the pass, and the FLUSH (rules R152, R176, R180, R183, R184). -/
def cyclesLeft (cfg : Config) (n : Nat) (e : Executor) : Nat :=
  if e.phase = .executing then
    2 * (n - e.codeCount) + e.storePending + cfg.preReturnPadLimit + cfg.postReturnPadLimit + cfg.flushSeq.length
      + cfg.flushExtraMax + 2
  else if e.pass then cfg.postReturnPadLimit + 1 - e.codeCount + e.storePending
  else cfg.preReturnPadLimit + 1 + n - e.codeCount + (cfg.postReturnPadLimit + 1) + e.storePending

/-- The accesses of this attempt after the one that a WAIT_PRACC waits for. -/
def accessesAfter (s : State) : Wait → Nat
  | .cycle => cyclesLeft s.cfg s.run.prog.length s.exe
  | .flush i => s.cfg.flushSeq.length - (i + 1) + s.cfg.flushExtraMax
  | .extra j => s.cfg.flushExtraMax - (j + 1)
  | .feed k => s.run.prog.length - (k + 1)

/-- The accesses of the run after the one that a WAIT_PRACC waits for. -/
def accessesLeft (s : State) (w : Wait) : Nat :=
  attemptsLeft s.cfg s.exe * attemptAccesses s.cfg s.run.prog.length + accessesAfter s w

/-- The scan answers set aside for the recovery that the error exit of an EXEC may start (rule R298): its program has at most
10 entries (rule R264). -/
def reserve (cfg : Config) : Option Ctx → Nat
  | some .execSync | some .execBatched => syncBound cfg 10
  | some .feed | some (.recover _ _) | some (.exitRecovery _) | none => 0

/-- A bound on the scan answers that the running command still waits for, recovery included (log entry 8). -/
def scansLeft (s : State) : Nat :=
  match s.run.point with
  | .idle => 0
  | .poll w polls =>
    reserve s.cfg s.run.ctx + accessesLeft s w * accessScans s.cfg + (s.cfg.pollLimit - polls + 2)
  | .addr w _ _ => reserve s.cfg s.run.ctx + accessesLeft s w * accessScans s.cfg + 1
  | .drain | .feedEnd | .batch _ => reserve s.cfg s.run.ctx + 1

/-- `s` is at a position that fits it, and waits for no more scan answers than `a` accesses take and the recovery that may
follow a run in the context `ctx`. -/
structure Within (s : State) (cfg : Config) (ctx : Option Ctx) (a : Nat) : Prop where
  point : pointOk s
  scans : scansLeft s ≤ reserve cfg ctx + a * accessScans cfg

theorem Within.mono {s : State} {cfg : Config} {ctx : Option Ctx} {a b : Nat} (h : Within s cfg ctx a) (le : a ≤ b) :
    Within s cfg ctx b :=
  ⟨h.point, h.scans.trans (Nat.add_le_add_left (Nat.mul_le_mul_right _ le) _)⟩

/-- What the scan port changes does not count. -/
theorem portOnly_scansLeft {s t : State} (f : PortOnly s t) : scansLeft t = scansLeft s := by
  simp only [scansLeft, accessesLeft, accessesAfter, f.run, f.exe, f.cfg]

theorem portOnly_pointOk {s t : State} (f : PortOnly s t) : pointOk t ↔ pointOk s := by
  simp only [pointOk, toObserve, flushing, syncRun, f.run, f.exe, f.cfg]

/-! ### Ends and starts of runs -/

theorem syncBound_eq (cfg : Config) (n : Nat) :
    syncBound cfg n = (cfg.restartLimit + 3) * attemptAccesses cfg n * accessScans cfg + 2 := rfl

theorem syncBound_mono (cfg : Config) {m n : Nat} (h : m ≤ n) : syncBound cfg m ≤ syncBound cfg n := by
  have : attemptAccesses cfg m ≤ attemptAccesses cfg n := by unfold attemptAccesses; omega
  rw [syncBound_eq, syncBound_eq]
  gcongr

theorem endCommand_within (k : Kind) (s : State) (cfg : Config) (ctx : Option Ctx) (a : Nat) :
    Within (endCommand k s) cfg ctx a :=
  ⟨⟨rfl, rfl⟩, Nat.zero_le _⟩

/-- A run that waits for its first access has `a + 1` accesses before it, and these fit the bound of the executor. -/
theorem access_scans_le_syncBound (cfg : Config) {n a : Nat}
    (h : a + 1 ≤ (cfg.restartLimit + 3) * attemptAccesses cfg n) :
    a * accessScans cfg + (cfg.pollLimit + 2) ≤ syncBound cfg n := by
  have := Nat.mul_le_mul_right (accessScans cfg) h
  rw [Nat.add_mul, Nat.one_mul] at this
  exact this.trans (Nat.le_add_right _ 2)

theorem startSync_pointOk {ctx : Ctx} {prog : List Entry} (hc : isSyncCtx ctx = true) (hp : prog ≠ []) (s : State) :
    pointOk (startSync ctx prog s) :=
  ⟨hc, .inl ⟨rfl, List.length_pos_iff.2 hp, rfl⟩⟩

theorem attemptsLeft_le (cfg : Config) (e : Executor) : attemptsLeft cfg e ≤ cfg.restartLimit + 1 :=
  Nat.add_le_add (Nat.sub_le ..) (by split <;> decide)

/-- A run that waits for its first access is within the bound of the executor (log entry 8). -/
theorem scansLeft_first_le {s : State} {w : Wait} (hp : s.run.point = .poll w 0)
    (lt : accessesAfter s w < attemptAccesses s.cfg s.run.prog.length) :
    scansLeft s ≤ reserve s.cfg s.run.ctx + syncBound s.cfg s.run.prog.length := by
  have h : accessesLeft s w + 1 ≤ (s.cfg.restartLimit + 3) * attemptAccesses s.cfg s.run.prog.length := by
    calc accessesLeft s w + 1
        ≤ (s.cfg.restartLimit + 1) * attemptAccesses s.cfg s.run.prog.length
            + attemptAccesses s.cfg s.run.prog.length :=
          (Nat.add_assoc ..).trans_le (Nat.add_le_add (Nat.mul_le_mul_right _ (attemptsLeft_le ..)) lt)
      _ = (s.cfg.restartLimit + 2) * attemptAccesses s.cfg s.run.prog.length := (Nat.succ_mul ..).symm
      _ ≤ _ := Nat.mul_le_mul_right _ (Nat.le_succ _)
  unfold scansLeft
  rw [hp]
  exact (Nat.add_assoc ..).trans_le (Nat.add_le_add_left (access_scans_le_syncBound s.cfg h) _)

theorem scansLeft_startSync_le (ctx : Ctx) (prog : List Entry) (s : State) :
    scansLeft (startSync ctx prog s) ≤ reserve s.cfg (some ctx) + syncBound s.cfg prog.length := by
  refine scansLeft_first_le (s := startSync ctx prog s) rfl ?_
  show 2 * (prog.length - 0) + 0 + s.cfg.preReturnPadLimit + s.cfg.postReturnPadLimit + s.cfg.flushSeq.length
    + s.cfg.flushExtraMax + 2 < attemptAccesses s.cfg prog.length
  unfold attemptAccesses
  omega

theorem liWords_length_le (isa : Isa) (reg : RegNum) (optimize : Bool) (value : Word) :
    (liWords isa reg optimize value).length ≤ 2 := by
  unfold liWords; simp only; split_ifs <;> simp

/-- The recovery program has at most 10 entries (rule R264). -/
theorem recoveryProgram_length_le (isa : Isa) (snap : SnapFile) (first last : RegNum) :
    (recoveryProgram isa snap first last).length ≤ 10 := by
  have load (r : Scratch) :
      (if inRange first last (scratchNumber r) && (snapGet snap r).valid then
        liWords isa (scratchNumber r) true (snapGet snap r).value else []).length ≤ 2 := by
    split <;> [exact liWords_length_le ..; exact Nat.zero_le _]
  unfold recoveryProgram
  simp only
  generalize hl : scratchSet.flatMap _ = loads
  have le : loads.length ≤ 8 := by
    have h8 := load .r8
    have h9 := load .r9
    have h10 := load .r10
    have h15 := load .r15
    simp only [← hl, scratchSet, List.flatMap_cons, List.flatMap_nil, List.length_append, List.length_nil]
    omega
  split
  · exact Nat.zero_le _
  · simp only [List.length_map, List.length_append, List.length_cons, List.length_nil]
    omega

/-- The error exit ends the command, or starts a recovery that has its scan answers set aside (rules R298, R300). -/
theorem errorExit_within (ctx : Option Ctx) (k : Kind) (r : Reason) (s : State) :
    pointOk (errorExit ctx k r s) ∧ scansLeft (errorExit ctx k r s) ≤ reserve s.cfg ctx := by
  have ends (b : Bool) (m : Nat) : pointOk (endCommand k (recordFailure b r s)) ∧
      scansLeft (endCommand k (recordFailure b r s)) ≤ m := ⟨⟨rfl, rfl⟩, Nat.zero_le _⟩
  have recov (b : Bool) : pointOk (startRecovery (.exitRecovery k) 0 31 (endCommand k) (recordFailure b r s)) ∧
      scansLeft (startRecovery (.exitRecovery k) 0 31 (endCommand k) (recordFailure b r s)) ≤ syncBound s.cfg 10 := by
    rcases startRecovery_cases (.exitRecovery k) 0 31 (endCommand k) (recordFailure b r s) with ⟨-, e⟩ | ⟨ne, e⟩ <;> rw [e]
    · exact ends b _
    · refine ⟨startSync_pointOk rfl ne _, (scansLeft_startSync_le ..).trans ?_⟩
      rw [(runFrame_recordFailure b r s).cfg]
      exact (Nat.zero_add _).trans_le (syncBound_mono _ (recoveryProgram_length_le ..))
  unfold errorExit
  split
  · simp only; split <;> [exact recov false; exact ends false _]
  · simp only; split <;> [exact recov true; exact ends true _]
  all_goals exact ends false _

theorem raise_within (k : Kind) (r : Reason) (s : State) (a : Nat) :
    Within (raise k r s) s.cfg s.run.ctx a := by
  have exit (u : State) (hc : u.cfg = s.cfg) : Within (errorExit s.run.ctx k r u) s.cfg s.run.ctx a := by
    obtain ⟨hp, hs⟩ := errorExit_within s.run.ctx k r u
    exact ⟨hp, hs.trans (hc ▸ Nat.le_add_right _ _)⟩
  unfold raise
  split
  · exact exit _ (runFrame_noteRecovery ..).cfg
  · exact endCommand_within ..
  all_goals exact exit s rfl

theorem succeed_within (s : State) (cfg : Config) (ctx : Option Ctx) (a : Nat) : Within (succeed s) cfg ctx a := by
  unfold succeed; split <;> exact endCommand_within ..

/-! ### Waiting for the next access -/

/-- A command that goes on to wait for another access takes that access and those after it. -/
theorem waitAt_poll_within {s : State} {w : Wait} (h : pointOk (s.waitAt (.poll w 0))) {a : Nat}
    (le : accessesLeft s w + 1 ≤ a) : Within (s.waitAt (.poll w 0)) s.cfg s.run.ctx a := by
  refine ⟨h, ?_⟩
  have := Nat.mul_le_mul_right (accessScans s.cfg) le
  rw [Nat.add_mul, Nat.one_mul] at this
  exact (Nat.add_assoc ..).trans_le (Nat.add_le_add_left this _)

/-- A synchronous run goes on to DRAIN, its last scan (rule R186). -/
theorem waitAt_drain_within {s : State} (sync : syncRun s) (final : s.exe.phase = .finalCheck) {a : Nat} (le : 1 ≤ a) :
    Within (s.waitAt .drain) s.cfg s.run.ctx a :=
  ⟨⟨sync, final⟩, Nat.add_le_add_left (Nat.mul_pos le (Nat.succ_pos _)) _⟩

/-! ### FLUSH and the top of the loop -/

/-- A synchronous run goes on to observe. -/
theorem waitAt_cycle_within {s : State} (h : toObserve s) {a : Nat} (le : accessesLeft s .cycle + 1 ≤ a) :
    Within (s.waitAt (.poll .cycle 0)) s.cfg s.run.ctx a :=
  waitAt_poll_within (w := .cycle) h le

theorem resetAttempt_toObserve {s : State} (sync : syncRun s) (ne : s.run.prog ≠ []) : toObserve (resetAttempt s) :=
  ⟨sync, .inl ⟨rfl, List.length_pos_iff.2 ne, rfl⟩⟩

/-- An attempt that starts takes at most one of the attempts left (rule R177). -/
theorem accessesLeft_resetAttempt_le {s : State} {m : Nat} (spent : attemptsLeft s.cfg s.exe < m) :
    accessesLeft (resetAttempt s) .cycle + 1 ≤ m * attemptAccesses s.cfg s.run.prog.length := by
  have cycles : cyclesLeft s.cfg s.run.prog.length (resetAttempt s).exe + 1 ≤
      attemptAccesses s.cfg s.run.prog.length := by
    simp only [cyclesLeft, resetAttempt, State.withExe_exe, if_pos, attemptAccesses]
    omega
  calc accessesLeft (resetAttempt s) .cycle + 1
      ≤ attemptsLeft s.cfg s.exe * attemptAccesses s.cfg s.run.prog.length + attemptAccesses s.cfg s.run.prog.length :=
        Nat.add_le_add_left cycles _
    _ = (attemptsLeft s.cfg s.exe + 1) * attemptAccesses s.cfg s.run.prog.length := (Nat.succ_mul ..).symm
    _ ≤ m * attemptAccesses s.cfg s.run.prog.length := Nat.mul_le_mul_right _ spent

theorem endFlush_within {s : State} (h : flushing s) {a : Nat}
    (le : attemptsLeft s.cfg s.exe * attemptAccesses s.cfg s.run.prog.length ≤ a) :
    Within (endFlush s) s.cfg s.run.ctx a := by
  obtain ⟨sync, -, budget, -, ne⟩ := h
  have spent : attemptsLeft s.cfg { s.exe with restartCount := s.exe.restartCount + 1 } < attemptsLeft s.cfg s.exe :=
    Nat.add_lt_add_right (Nat.sub_succ_lt_self _ _ budget) _
  have observes := resetAttempt_toObserve (s := s.withExe { s.exe with restartCount := s.exe.restartCount + 1 }) sync ne
  exact waitAt_cycle_within observes ((accessesLeft_resetAttempt_le spent).trans le)

theorem flushExtra_within {s : State} (h : flushing s) {j a : Nat}
    (le : attemptsLeft s.cfg s.exe * attemptAccesses s.cfg s.run.prog.length + (s.cfg.flushExtraMax - j) ≤ a) :
    Within (flushExtra j s) s.cfg s.run.ctx a := by
  unfold flushExtra
  split
  case isTrue lt =>
    refine waitAt_poll_within (w := .extra j) ⟨h, lt⟩ ?_
    simp only [accessesLeft, accessesAfter]
    omega
  case isFalse => exact endFlush_within h (by omega)

theorem flushFrom_within {s : State} (h : flushing s) {i a : Nat}
    (le : attemptsLeft s.cfg s.exe * attemptAccesses s.cfg s.run.prog.length
      + (s.cfg.flushSeq.length - i + s.cfg.flushExtraMax) ≤ a) : Within (flushFrom i s) s.cfg s.run.ctx a := by
  unfold flushFrom
  split
  case isTrue lt =>
    refine waitAt_poll_within (w := .flush i) ⟨h, lt⟩ ?_
    simp only [accessesLeft, accessesAfter]
    omega
  case isFalse => exact flushExtra_within h (by omega)

theorem toObserve_phase {s : State} (h : toObserve s) : s.exe.phase ≠ .restarting := by
  rcases h with ⟨-, ⟨e, -, -⟩ | e⟩ <;> rw [e] <;> decide

theorem loopTop_observe_within {s : State} (h : toObserve s) {a : Nat} (le : accessesLeft s .cycle + 1 ≤ a) :
    Within (loopTop s) s.cfg s.run.ctx a := by
  rw [loopTop, if_neg (toObserve_phase h)]
  exact waitAt_cycle_within h le

/-- Step S0 fails, or goes on to FLUSH while there is budget (rule R173). -/
theorem loopTop_restart_within {s : State} (sync : syncRun s) (phase : s.exe.phase = .restarting)
    (mismatch : s.exe.lastMismatch.isSome = true) (ne : s.run.prog ≠ []) {a : Nat}
    (le : attemptsLeft s.cfg s.exe * attemptAccesses s.cfg s.run.prog.length
      + (s.cfg.flushSeq.length + s.cfg.flushExtraMax) ≤ a) :
    Within (loopTop s) s.cfg s.run.ctx a := by
  rw [loopTop, if_pos phase]
  split
  case isTrue => exact raise_within ..
  case isFalse budget => exact flushFrom_within ⟨sync, phase, by omega, mismatch, ne⟩ le

/-! ### A cycle -/

/-- The exchange of a cycle ends: DRAIN, or the next observation (rule R185). -/
theorem finishExchange_within {s : State} (h : toObserve s) {a : Nat} (le : accessesLeft s .cycle + 1 ≤ a) :
    Within (finishExchange s) s.cfg s.run.ctx a := by
  unfold finishExchange
  simp only
  split
  case isTrue last =>
    have pass : s.exe.pass = true := (Bool.and_eq_true_iff.1 last).1
    obtain ⟨sync, ⟨-, -, np⟩ | final⟩ := h
    · rw [np] at pass; cases pass
    · exact waitAt_drain_within (s := finish s) sync final (le.trans' (Nat.le_add_left ..))
  case isFalse => exact loopTop_observe_within (s := finish s) h le

/-- A store that is taken leaves one access less. -/
theorem cyclesLeft_takeStore (cfg : Config) (n : Nat) {e : Executor} (h : e.storePending ≠ 0) (d : Option Deferred) :
    cyclesLeft cfg n { e with pending := d, storePending := e.storePending - 1 } < cyclesLeft cfg n e := by
  simp only [cyclesLeft]
  split_ifs <;> omega

/-- An entry that is fed leaves a fetch and perhaps a store less, for perhaps a pending store more. -/
theorem cyclesLeft_feedEntry (cfg : Config) {n : Nat} {e e' : Executor} (phase : e.phase = .executing)
    (lt : e.codeCount < n) (count : e'.codeCount = e.codeCount + 1) (stores : e'.storePending ≤ e.storePending + 1) :
    cyclesLeft cfg n e' < cyclesLeft cfg n e := by
  rw [cyclesLeft, cyclesLeft, if_pos phase, count]
  split_ifs <;> omega

/-- A pad that is fed leaves one pad less, on its side of the pass. -/
theorem cyclesLeft_pad {cfg : Config} {n : Nat} {e : Executor} (phase : e.phase ≠ .executing)
    (pre : e.pass = false → e.codeCount - n ≤ cfg.preReturnPadLimit)
    (post : e.pass = true → e.codeCount ≤ cfg.postReturnPadLimit) :
    cyclesLeft cfg n { e with codeCount := e.codeCount + 1 } < cyclesLeft cfg n e := by
  unfold cyclesLeft
  rw [if_neg phase, if_neg phase]
  cases pass : e.pass
  case false => have := pre pass; simp only [Bool.false_eq_true, if_false]; omega
  case true => have := post pass; simp only [if_true]; omega

/-- The accesses of an attempt allow for the FLUSH after it. -/
theorem flush_le_cyclesLeft (cfg : Config) (n : Nat) {e : Executor} (phase : e.phase = .executing) :
    cfg.flushSeq.length + cfg.flushExtraMax ≤ cyclesLeft cfg n e := by
  rw [cyclesLeft, if_pos phase]
  omega

/-- The padding after the pass is counted before it. -/
theorem cyclesLeft_pass (cfg : Config) (n : Nat) {e : Executor} (phase : e.phase ≠ .executing) (np : ¬ e.pass = true) :
    cfg.postReturnPadLimit + 1 + e.storePending ≤ cyclesLeft cfg n e := by
  rw [cyclesLeft, if_neg phase, if_neg np]
  omega

/-- The exchange of a cycle that leaves fewer cycles to come than there were. -/
theorem finishExchange_fewer_within {s u : State} (hc : u.cfg = s.cfg) (hr : u.run = s.run) (h : toObserve u)
    (same : attemptsLeft s.cfg u.exe = attemptsLeft s.cfg s.exe)
    (fewer : cyclesLeft s.cfg s.run.prog.length u.exe < cyclesLeft s.cfg s.run.prog.length s.exe) :
    Within (finishExchange u) s.cfg s.run.ctx (accessesLeft s .cycle) := by
  refine hc ▸ hr ▸ finishExchange_within h ?_
  simp only [accessesLeft, accessesAfter, same, hc, hr]
  omega

/-- A store cycle fails, or takes one of the pending stores (rule R176). -/
theorem storeCycle_within {s : State} (h : toObserve s) (addr : Word) :
    Within (storeCycle addr s) s.cfg s.run.ctx (accessesLeft s .cycle) := by
  unfold storeCycle
  split
  case isTrue => exact raise_within ..
  case isFalse pending =>
    split
    case isTrue => exact raise_within ..
    case isFalse =>
      split
      case isTrue => exact raise_within ..
      case isFalse =>
        exact finishExchange_fewer_within rfl rfl h rfl (cyclesLeft_takeStore _ _ pending _)

theorem feedEntry_within {s : State} (sync : syncRun s) (phase : s.exe.phase = .executing)
    (lt : s.exe.codeCount < s.run.prog.length) (np : s.exe.pass = false) :
    Within (feedEntry s) s.cfg s.run.ctx (accessesLeft s .cycle) := by
  unfold feedEntry
  refine finishExchange_fewer_within rfl rfl ⟨sync, ?_⟩ rfl (cyclesLeft_feedEntry _ phase lt rfl ?_)
  · by_cases last : s.exe.codeCount + 1 = s.run.prog.length
    · exact .inr (if_pos last)
    · exact .inl ⟨(if_neg last).trans phase, Nat.lt_of_le_of_ne lt last, np⟩
  · simp only [(portOnly_feed _ _).exe, State.withExe_exe]
    split <;> omega

/-- A fetch mismatch takes the resync, a restart with its FLUSH, or fails (rules R178, R179). -/
theorem fetchMismatch_within {s : State} (sync : syncRun s) (phase : s.exe.phase = .executing)
    (lt : s.exe.codeCount < s.run.prog.length) (addr : Word) :
    Within (fetchMismatch addr s) s.cfg s.run.ctx (accessesLeft s .cycle) := by
  have ne : s.run.prog ≠ [] := List.ne_nil_of_length_pos (Nat.zero_lt_of_lt lt)
  unfold fetchMismatch
  split
  case isTrue taken =>
    simp only [resyncs, Bool.and_eq_true, beq_iff_eq, Bool.not_eq_true'] at taken
    obtain ⟨⟨-, first⟩, unused⟩ := taken
    unfold resync
    refine loopTop_observe_within ?_ ((accessesLeft_resetAttempt_le ?_).trans (Nat.le_add_right ..))
    · exact resetAttempt_toObserve sync ne
    · simp only [attemptsLeft, State.withExe_exe, State.withExe_cfg, first, unused, if_true, Bool.false_eq_true, if_false]
      omega
  case isFalse =>
    split
    case isTrue =>
      refine loopTop_restart_within ?_ ?_ ?_ ?_ ?_
      · exact sync
      · rfl
      · rfl
      · exact ne
      · exact Nat.add_le_add_left (flush_le_cyclesLeft s.cfg _ phase) _
    case isFalse => exact raise_within ..

theorem padFetch_within {s : State} (h : syncRun s) (final : s.exe.phase = .finalCheck) :
    Within (padFetch s) s.cfg s.run.ctx (accessesLeft s .cycle) := by
  unfold padFetch
  split
  case isTrue => exact raise_within ..
  case isFalse pre =>
    split
    case isTrue => exact raise_within ..
    case isFalse post =>
      refine finishExchange_fewer_within rfl rfl ⟨h, .inr final⟩ rfl (cyclesLeft_pad ?_ (fun p => ?_) (fun p => ?_))
      · show s.exe.phase ≠ .executing
        rw [final]; decide
      · exact Nat.le_of_not_lt fun lt => pre ⟨p, lt⟩
      · exact Nat.le_of_not_lt fun lt => post ⟨p, lt⟩

/-- A fetch in the final check fails, ends the run, or is a pad (rules R181 to R184). -/
theorem fetchFinal_within {s : State} (h : syncRun s) (final : s.exe.phase = .finalCheck) (addr : Word) :
    Within (fetchFinal addr s) s.cfg s.run.ctx (accessesLeft s .cycle) := by
  have phase : s.exe.phase ≠ .executing := by rw [final]; decide
  unfold fetchFinal
  split
  case isTrue =>
    split
    case isTrue => exact raise_within ..
    case isFalse np =>
      have pass := cyclesLeft_pass s.cfg s.run.prog.length phase np
      split
      case isTrue =>
        refine waitAt_drain_within h final ?_
        simp only [accessesLeft, accessesAfter]
        omega
      case isFalse =>
        refine Within.mono (padFetch_within ?_ ?_) (Nat.add_le_add_left (pass.trans' ?_) _)
        · exact h
        · exact final
        · exact ((if_neg phase).trans (if_pos rfl)).le
  case isFalse =>
    split
    case isTrue => exact raise_within ..
    case isFalse => exact padFetch_within h final

/-- A cycle leaves fewer accesses than it found, whatever was observed (rule R171). -/
theorem cycle_within {s : State} (h : toObserve s) (isStore : Bool) (c addr : Word) :
    Within (cycle isStore c addr s) s.cfg s.run.ctx (accessesLeft s .cycle) := by
  unfold cycle
  simp only
  generalize hu : resolvePending (noteObserved c addr s) = u
  have hc : u.cfg = s.cfg := hu ▸ (runFrame_resolvePending (noteObserved c addr s)).cfg
  have hr : u.run = s.run := hu ▸ resolvePending_run (noteObserved c addr s)
  have he : u.exe = { s.exe with pending := none } := hu ▸ resolvePending_exe (noteObserved c addr s)
  have observes : toObserve u := by simpa only [toObserve, syncRun, hr, he] using h
  have same : accessesLeft u .cycle = accessesLeft s .cycle := by
    simp only [accessesLeft, accessesAfter, attemptsLeft, cyclesLeft, hc, hr, he]
  rw [← hc, ← hr, ← same]
  split
  case isTrue => exact storeCycle_within observes addr
  case isFalse =>
    obtain ⟨sync, ⟨phase, lt, np⟩ | final⟩ := observes
    · rw [if_pos phase]
      unfold fetchExecuting
      split
      case isTrue => exact feedEntry_within sync phase lt np
      case isFalse => exact fetchMismatch_within sync phase lt addr
    · rw [if_neg (by rw [final]; decide)]
      exact fetchFinal_within sync final addr

theorem extraRound_within {s : State} (h : flushing s) (j : Nat) (c addr : Word) :
    Within (extraRound j c addr s) s.cfg s.run.ctx (accessesLeft s (.extra j)) := by
  unfold extraRound
  simp only
  split
  case isTrue => exact endFlush_within (s := noteObserved c addr s) h (Nat.le_add_right ..)
  case isFalse => exact flushExtra_within (s := finish (feed _ (noteObserved c addr s))) h le_rfl

/-! ### The micro-step -/

/-- `t` is at a position that fits it, with fewer scan answers to wait for than `s`. -/
structure Closer (s t : State) : Prop where
  point : pointOk t
  scans : scansLeft t < scansLeft s

theorem Within.closer {s t : State} {a : Nat} (h : Within t s.cfg s.run.ctx a)
    (lt : reserve s.cfg s.run.ctx + a * accessScans s.cfg < scansLeft s) : Closer s t :=
  ⟨h.point, h.scans.trans_lt lt⟩

theorem scansLeft_poll {s : State} {w : Wait} {polls : Nat} (hp : s.run.point = .poll w polls) :
    scansLeft s =
      reserve s.cfg s.run.ctx + accessesLeft s w * accessScans s.cfg + (s.cfg.pollLimit - polls + 2) := by
  unfold scansLeft; rw [hp]

theorem scansLeft_addr {s : State} {w : Wait} {isStore : Bool} {c : Word} (hp : s.run.point = .addr w isStore c) :
    scansLeft s = reserve s.cfg s.run.ctx + accessesLeft s w * accessScans s.cfg + 1 := by
  unfold scansLeft; rw [hp]

theorem scansLeft_pos {s : State} (h : s.run.point ≠ .idle) : reserve s.cfg s.run.ctx < scansLeft s := by
  unfold scansLeft
  split
  case h_1 e => exact absurd e h
  all_goals omega

theorem raise_closer {s : State} (h : s.run.point ≠ .idle) (k : Kind) (r : Reason) : Closer s (raise k r s) :=
  (raise_within k r s 0).closer (by rw [Nat.zero_mul]; exact scansLeft_pos h)

theorem succeed_closer {s : State} (h : s.run.point ≠ .idle) (u : State) : Closer s (succeed u) :=
  (succeed_within u s.cfg s.run.ctx 0).closer (by rw [Nat.zero_mul]; exact scansLeft_pos h)

/-- One poll more, or the poll limit (rule R143). -/
theorem onNotPending_closer {s : State} (h : pointOk s) {w : Wait} {polls : Nat} (hp : s.run.point = .poll w polls) :
    Closer s (onNotPending s) := by
  unfold onNotPending
  simp only [hp]
  split
  case isTrue => exact raise_closer (by rw [hp]; exact Point.noConfusion) _ _
  case isFalse lt =>
    refine ⟨?_, ?_⟩
    · unfold pointOk at h ⊢
      rw [hp] at h
      cases w <;> exact h
    · rw [scansLeft_poll hp, scansLeft_poll (s := s.waitAt _) rfl]
      refine Nat.add_lt_add_left ?_ _
      show s.cfg.pollLimit - (polls + 1) + 2 < _
      omega

/-- An access goes on to its address, or is fed (rules R143, R152, R260). -/
theorem onAccess_closer {s : State} (h : pointOk s) {w : Wait} {polls : Nat} (hp : s.run.point = .poll w polls)
    (isStore : Bool) (c : Word) : Closer s (onAccess isStore c s) := by
  have toAddress {w' : Wait} (hw : s.run.point = .poll w' polls) (ok : pointOk (s.waitAt (.addr w' isStore c))) :
      Closer s (s.waitAt (.addr w' isStore c)) := by
    refine ⟨ok, ?_⟩
    rw [scansLeft_poll hw, scansLeft_addr (s := s.waitAt _) rfl]
    exact Nat.add_lt_add_left (by omega) _
  have within {a : Nat} {t : State} (ht : Within t s.cfg s.run.ctx a) (le : a ≤ accessesLeft s w) : Closer s t := by
    refine (ht.mono le).closer ?_
    rw [scansLeft_poll hp]
    omega
  unfold pointOk at h
  unfold onAccess
  rw [hp] at h
  cases w <;> simp only [hp]
  case cycle => exact toAddress hp h
  case extra j => exact toAddress hp h
  case flush i => exact within (flushFrom_within (s := finish (feed _ s)) h.1 le_rfl) le_rfl
  case feed k =>
    obtain ⟨ctx, phase, -⟩ := h
    unfold feedFrom
    split
    case isTrue lt =>
      refine within (waitAt_poll_within (s := finish (feed _ s)) (w := .feed (k + 1)) ⟨ctx, phase, lt⟩ le_rfl) ?_
      exact Nat.add_lt_add_left (Nat.sub_succ_lt_self _ _ lt) _
    case isFalse =>
      refine ⟨⟨ctx, phase⟩, ?_⟩
      rw [scansLeft_poll hp]
      show reserve s.cfg s.run.ctx + 1 < _
      omega

/-- The reaction to a captured control word (rule R85). -/
theorem onControl_closer {s : State} (h : pointOk s) {w : Wait} {polls : Nat} (hp : s.run.point = .poll w polls)
    (c : Word) : Closer s (onControl c s) := by
  unfold onControl
  split <;> [exact onNotPending_closer h hp; exact onAccess_closer h hp ..; exact onAccess_closer h hp ..]

/-- The reaction to a captured address (rules R145, R152). -/
theorem onAddress_closer {s : State} (h : pointOk s) {w : Wait} {isStore : Bool} {c : Word}
    (hp : s.run.point = .addr w isStore c) (addr : Word) : Closer s (onAddress w isStore c addr s) := by
  have less : reserve s.cfg s.run.ctx + accessesLeft s w * accessScans s.cfg < scansLeft s := by
    rw [scansLeft_addr hp]; exact Nat.lt_succ_self _
  unfold pointOk at h
  rw [hp] at h
  cases w with
  | cycle => exact (cycle_within h isStore c addr).closer less
  | extra j => exact (extraRound_within h.1 j c addr).closer less
  | flush i => exact h.elim
  | feed k => exact h.elim

/-- The batch ends its run, by success or by a failure (rules R226, R230). -/
theorem batchRan_closer {s : State} (h : s.run.point ≠ .idle) (plan : List (Slot × Nat)) :
    Closer s (batchRan plan s) := by
  unfold batchRan
  simp only
  generalize hl : plan.map (fun p => (p.1, capturedRecord s p.2)) = log
  split
  case h_1 k r stage u e =>
    have hu : u = (replay log [] (s.withLog (log.map Prod.snd))).2.2 := by rw [e]
    have hc : u.cfg = s.cfg := by rw [hu]; exact (runFrame_replay ..).cfg
    have hr : u.run = s.run := by rw [hu]; exact replay_run ..
    obtain ⟨point, scans⟩ := raise_within k r u 0
    refine ⟨point, scans.trans_lt ?_⟩
    rw [hc, hr, Nat.zero_mul]
    exact scansLeft_pos h
  case h_2 => exact succeed_closer h _

/-- A micro-step of a running command keeps its position fit and brings it closer to its end. -/
theorem tick_closer {s : State} (h : pointOk s) (running : s.run.point ≠ .idle) : Closer s (tick s) := by
  have after {t u : State} (f : PortOnly s t) (k : Closer t u) : Closer s u := ⟨k.point, portOnly_scansLeft f ▸ k.scans⟩
  have busy {t : State} (f : PortOnly s t) : t.run.point ≠ .idle := f.run ▸ running
  have fails {t : State} (f : PortOnly s t) : Closer s (raise .transport .transport t) :=
    after f (raise_closer (busy f) _ _)
  unfold tick
  split
  case h_1 idle => exact absurd idle running
  case h_2 w polls hp =>
    rcases scanControl_cases polls s with ⟨t, e, f⟩ | ⟨c, t, e, f⟩ <;> rw [e]
    · exact fails f
    · exact after f (onControl_closer ((portOnly_pointOk f).2 h) (f.run ▸ hp) c)
  case h_3 w isStore c hp =>
    rcases scanAddress_cases s with ⟨t, e, f⟩ | ⟨a, t, e, f⟩ <;> rw [e]
    · exact fails f
    · exact after f (onAddress_closer ((portOnly_pointOk f).2 h) (f.run ▸ hp) a)
  all_goals
    rcases execQueued_cases s with ⟨t, e, f⟩ | ⟨t, e, f⟩ <;> rw [e]
    · exact fails f
  case h_4.inr => exact after f (succeed_closer (busy f) _)
  case h_5.inr => exact after f (succeed_closer (busy f) _)
  case h_6.inr => exact after f (batchRan_closer (busy f) _)

/-- As many micro-steps as the bound allows end the command (rules R8, R266). -/
theorem runTicks_idle {fuel : Nat} {s : State} (h : pointOk s) (le : scansLeft s ≤ fuel) :
    (runTicks fuel s).run.point = .idle := by
  induction fuel generalizing s with
  | zero =>
    by_contra running
    exact absurd ((scansLeft_pos running).trans_le le) (Nat.not_lt_zero _)
  | succ n ih =>
    unfold runTicks
    split
    case isTrue idle => exact idle
    case isFalse running =>
      obtain ⟨point, scans⟩ := tick_closer h running
      exact ih point (by omega)

/-- A command that starts at a position that fits it, with scan answers within the bound, runs to its end. -/
theorem runToEnd_idle {s : State}
    (h : s.run.point ≠ .idle → pointOk s ∧ scansLeft s ≤ commandBound s.cfg s.run.prog.length) :
    (runToEnd s).run.point = .idle := by
  unfold runToEnd
  split
  case isTrue idle => exact idle
  case isFalse running => exact runTicks_idle (h running).1 (h running).2

/-! ### Whole commands -/

theorem syncBound_le_commandBound (cfg : Config) (n : Nat) : syncBound cfg 10 + syncBound cfg n ≤ commandBound cfg n := by
  unfold commandBound; omega

theorem reserve_le (cfg : Config) (ctx : Option Ctx) : reserve cfg ctx ≤ syncBound cfg 10 := by
  unfold reserve; split <;> simp

theorem startSync_ends {ctx : Ctx} {prog : List Entry} (hc : isSyncCtx ctx = true) (hp : prog ≠ []) (s : State) :
    (runToEnd (startSync ctx prog s)).run.point = .idle := by
  refine runToEnd_idle fun _ => ⟨startSync_pointOk hc hp s, (scansLeft_startSync_le ctx prog s).trans ?_⟩
  exact (Nat.add_le_add_right (reserve_le ..) _).trans (syncBound_le_commandBound ..)

theorem runToEnd_of_idle {s : State} (h : s.run.point = .idle) : (runToEnd s).run.point = .idle :=
  runToEnd_idle fun running => absurd h running

theorem startBatched_ends (s : State) : (runToEnd (startBatched s)).run.point = .idle := by
  generalize hu : setIR s.cfg.ir.all ((s.withExe { Executor.reset with phase := .executing }).withRun
    { ctx := some .execBatched, prog := s.que.entries, point := .idle }) = u
  generalize hslots : buildSlots s.cfg s.que.entries = slots
  have started : startBatched s = (issueSlots slots u).2.waitAt (.batch (issueSlots slots u).1) := by
    rw [← hslots, ← hu]; rfl
  have f := portOnly_issueSlots slots u
  rw [started]
  refine runToEnd_idle fun _ => ⟨⟨?_, ?_, ?_⟩, ?_⟩
  · rw [State.waitAt_run, f.run, ← hu]; rfl
  · rw [State.waitAt_exe, f.exe, ← hu]; rfl
  · rw [issueSlots_plan, State.waitAt_cfg, State.waitAt_run, f.cfg, f.run, ← hslots, ← hu]; rfl
  · have := reserve_le (issueSlots slots u).2.cfg (issueSlots slots u).2.run.ctx
    show reserve (issueSlots slots u).2.cfg (issueSlots slots u).2.run.ctx + 1 ≤
      commandBound (issueSlots slots u).2.cfg _
    unfold commandBound
    omega

/-- EXEC runs to its end (rules R170, R305). -/
theorem startExec_ends {s : State} (h : s.run.point = .idle) : (runToEnd (startExec s)).run.point = .idle := by
  unfold startExec
  split
  case isTrue => exact runToEnd_of_idle rfl
  case isFalse =>
    split
    case isTrue => exact runToEnd_of_idle h
    case isFalse ne =>
      split
      · exact startSync_ends rfl ne s
      · exact startBatched_ends s

theorem startFeed_ends {s : State} (h : s.run.point = .idle) : (runToEnd (startFeed s)).run.point = .idle := by
  unfold startFeed
  split
  case isTrue => exact runToEnd_of_idle rfl
  case isFalse =>
    split
    case isTrue => exact runToEnd_of_idle h
    case isFalse ne =>
      have lt : 0 < s.que.entries.length := List.length_pos_iff.2 ne
      generalize hu : (s.withPhase .executing).withRun { ctx := some .feed, prog := s.que.entries, point := .idle } = u
      have hr : u.run = { ctx := some .feed, prog := s.que.entries, point := .idle } := hu ▸ rfl
      have phase : u.exe.phase = .executing := hu ▸ rfl
      have waits : 0 < u.run.prog.length := hr ▸ lt
      rw [feedFrom, if_pos waits]
      refine runToEnd_idle fun _ => ⟨⟨congrArg Run.ctx hr, phase, waits⟩, ?_⟩
      refine (scansLeft_first_le (s := u.waitAt (.poll (.feed 0) 0)) rfl ?_).trans
        ((Nat.add_le_add_right (reserve_le ..) _).trans (syncBound_le_commandBound ..))
      show u.run.prog.length - 1 < attemptAccesses u.cfg u.run.prog.length
      unfold attemptAccesses
      omega

/-- RECOVER runs to its end (rule R263). -/
theorem startRecover_ends {s : State} (h : s.run.point = .idle) (first last : RegNum) :
    (runToEnd (startRecover first last s)).run.point = .idle := by
  unfold startRecover
  split
  case isTrue => exact runToEnd_of_idle rfl
  case isFalse =>
    rcases startRecovery_cases (.recover first last) first last (·.withStatus .ok) s with ⟨-, e⟩ | ⟨ne, e⟩ <;> rw [e]
    · exact runToEnd_of_idle h
    · exact startSync_ends rfl ne s

theorem endAppend_idle {appended : Bool × State} (h : appended.2.run.point = .idle) :
    (endAppend appended).run.point = .idle := by
  unfold endAppend; split <;> [exact h; rfl]

/-- Settles O47: a running command is at a position that fits it, and every micro-step brings it closer to its end. -/
theorem everyCommandRunsToItsEnd : Obligations.EveryCommandRunsToItsEnd := by
  intro s i surface idle
  cases i with
  | qInit => exact ⟨_, rfl, idle⟩
  | qAdd instr storeAddr =>
    refine ⟨_, rfl, ?_⟩
    split
    · rfl
    · split
      · rfl
      · exact endAppend_idle ((appendFrame_appendEntry _ s).run ▸ idle)
  | qAddLi reg optimize value =>
    refine ⟨_, rfl, ?_⟩
    split
    · rfl
    · exact endAppend_idle ((appendFrame_appendAll _ s).run ▸ idle)
  | exec => exact ⟨_, rfl, startExec_ends idle⟩
  | feedUnchecked => exact ⟨_, rfl, startFeed_ends idle⟩
  | setMode mode => exact ⟨_, rfl, idle⟩
  | setSnapshot reg value =>
    refine ⟨_, rfl, ?_⟩
    split
    · rfl
    · exact idle
  | recover first last => exact ⟨_, rfl, startRecover_ends idle first last⟩
  | setIsa isa endian => exact ⟨_, rfl, idle⟩
  | reservedCmd9 | reservedCmdAB | reservedCmdCF => exact ⟨_, rfl, rfl⟩
  | ctrlNotPending | ctrlFetch | ctrlStore | nop | lui | ori | j | b => cases surface

end Sys2Proof.Proofs
end

section
/-! SUPPORT. Store addresses and the indices of OUT, what a step runs, and the parameters. -/

namespace Sys2Proof.Proofs

open Sys2Proof.Machine Sys2Proof.Safety

/-! ## Store addresses -/

/-- What rule R10 asks of the output window: it is aligned, and ends within the address space. -/
theorem outWindow_sound (cfg : Config) :
    cfg.paramOutBase.toNat % 4 = 0 ∧ cfg.paramOutBase.toNat + 4 * cfg.paramOutWords ≤ 2 ^ 32 := by
  have sound := cfg.sound
  unfold Params.problem? at sound
  split_ifs at sound with _ aligned _ _ short
  exact ⟨not_not.1 aligned, short⟩

theorem aligned_iff (a : Word) : aligned a = true ↔ a.toNat % 4 = 0 := by
  simp [aligned, ← BitVec.toNat_inj]

/-- `valid_store_addr` on unsigned numbers (rule R112). -/
theorem validStoreAddr_iff (cfg : Config) (a : Word) :
    validStoreAddr cfg a = true ↔
      a.toNat % 4 = 0 ∧ cfg.paramOutBase.toNat ≤ a.toNat ∧
        a.toNat < cfg.paramOutBase.toNat + 4 * cfg.paramOutWords := by
  simp only [validStoreAddr, inOutWindow, Bool.and_eq_true, decide_eq_true_eq, aligned_iff]

/-- `idx` on unsigned numbers, for an address that is not below the window (rule R63). -/
theorem outIndex_eq {cfg : Config} {a : Word} (h : cfg.paramOutBase.toNat ≤ a.toNat) :
    outIndex cfg a = (a.toNat - cfg.paramOutBase.toNat) / 4 := by
  rw [outIndex, BitVec.toNat_ushiftRight, BitVec.toNat_sub_of_le h, Nat.shiftRight_eq_div_pow]

/-- The address of word `i` of the window: the sum does not wrap (rules R10, R63). -/
theorem toNat_outAddr {cfg : Config} {i : Nat} (h : i < cfg.paramOutWords) :
    (cfg.paramOutBase + BitVec.ofNat 32 (4 * i)).toNat = cfg.paramOutBase.toNat + 4 * i := by
  obtain ⟨-, short⟩ := outWindow_sound cfg
  rw [BitVec.toNat_add, BitVec.toNat_ofNat]
  omega

theorem outIndex_lt {cfg : Config} {a : Word} (h : validStoreAddr cfg a = true) : outIndex cfg a < cfg.paramOutWords := by
  obtain ⟨-, low, high⟩ := (validStoreAddr_iff cfg a).1 h
  rw [outIndex_eq low]
  omega

/-- A valid address is that of its index (rule R63). -/
theorem outAddr_outIndex {cfg : Config} {a : Word} (h : validStoreAddr cfg a = true) :
    cfg.paramOutBase + BitVec.ofNat 32 (4 * outIndex cfg a) = a := by
  obtain ⟨mult, low, -⟩ := (validStoreAddr_iff cfg a).1 h
  obtain ⟨base, -⟩ := outWindow_sound cfg
  refine BitVec.eq_of_toNat_eq ?_
  rw [toNat_outAddr (outIndex_lt h), outIndex_eq low]
  omega

theorem outAddr_valid {cfg : Config} {i : Nat} (h : i < cfg.paramOutWords) :
    validStoreAddr cfg (cfg.paramOutBase + BitVec.ofNat 32 (4 * i)) = true := by
  obtain ⟨base, -⟩ := outWindow_sound cfg
  rw [validStoreAddr_iff, toNat_outAddr h]
  omega

theorem outIndex_outAddr {cfg : Config} {i : Nat} (h : i < cfg.paramOutWords) :
    outIndex cfg (cfg.paramOutBase + BitVec.ofNat 32 (4 * i)) = i := by
  rw [outIndex_eq (by rw [toNat_outAddr h]; omega), toNat_outAddr h]
  omega

/-- Settles O10: each of the two maps undoes the other. -/
theorem validStoreAddressesIndexOut : Obligations.ValidStoreAddressesIndexOut := by
  refine fun cfg => ⟨fun a b ha hb => ⟨outIndex_lt ha, outAddr_outIndex ha, fun same => ?_⟩,
    fun i hi => ⟨outAddr_valid hi, outIndex_outAddr hi⟩⟩
  rw [← outAddr_outIndex ha, ← outAddr_outIndex hb, same]

/-! ## The step -/

/-- Settles O12: a step of a running command leaves the inbox alone, and a micro-step with no command running does nothing. -/
theorem commandsWaitForTheRunningCommand : Obligations.CommandsWaitForTheRunningCommand := by
  refine ⟨fun s w0 w1 w2 rest inbox running => ⟨tick s, ?_, (runFrame_tick s).inbox⟩, fun s inbox idle => ?_⟩
  · rw [step_running (.inr ⟨running, w0, w1, w2, rest, inbox⟩), stepRunning_eq_tick]
  · rw [step_running (.inl inbox), stepRunning_eq_tick, tick_idle idle]

/-- Settles O11: each place of fetch has its equation of `step`, and each decoder its arm there. -/
theorem stepRunsTheDecodedInstruction : Obligations.StepRunsTheDecodedInstruction := by
  refine ⟨fun s w0 w1 w2 rest inbox idle => ⟨fun i decoded => ?_, fun e rejected => ?_⟩,
    fun s u wait polls c inbox polling answer => ?_, fun s w rest i inbox isa decoded => ?_⟩
  · have decoded : decodeCommand w0 w1 w2 = .ok i := decoded
    rw [step_command inbox idle, stepCommand, decoded]
    rfl
  · have rejected : decodeCommand w0 w1 w2 = .error e := rejected
    rw [step_command inbox idle, stepCommand, rejected]
    rfl
  · have running : s.run.point ≠ .idle := by rw [polling]; exact Point.noConfusion
    have cfg : u.cfg = s.cfg := by
      rcases scanControl_cases polls s with ⟨t, e, f⟩ | ⟨d, t, e, f⟩ <;> rw [e] at answer <;> cases answer
      exact f.cfg
    rw [step_running (inbox.imp_right fun waits => ⟨running, waits⟩), stepRunning, polling]
    simp only [answer, cfg]
  · have decoded : decodeWord w = .ok i := decoded
    rw [step_targetExec inbox, stepTarget, State.withInbox_ses, isa]
    simp only [decoded]
    rfl

/-- Settles O60: a word for the target is always the target's move, and it decodes under MIPS32 only. -/
theorem otherTargetWordsAreRefused : Obligations.OtherTargetWordsAreRefused := by
  refine fun s w rest inbox => ⟨fun isa => ?_, fun isa rejected => ?_⟩
  · rw [step_targetExec inbox, stepTarget, State.withInbox_ses, isa]
  · have rejected : decodeWord w = .error .notAnEmittedWord := rejected
    rw [step_targetExec inbox, stepTarget, State.withInbox_ses, isa]
    simp only [rejected]

/-! ## The parameters -/

theorem endAppend_cfg (appended : Bool × State) : (endAppend appended).cfg = appended.2.cfg := by
  unfold endAppend; split <;> rfl

/-- Every instruction answers a next state, under the same parameters (rule R20). -/
theorem exec_next_cfg (i : Instr) (s : State) : ∃ t, exec i s = .next t ∧ t.cfg = s.cfg := by
  cases i with
  | qAdd instr storeAddr =>
    refine ⟨_, rfl, ?_⟩
    split
    · rfl
    · split
      · rfl
      · exact (endAppend_cfg _).trans (appendFrame_appendEntry _ s).cfg
  | qAddLi reg optimize value =>
    refine ⟨_, rfl, ?_⟩
    split
    · rfl
    · exact (endAppend_cfg _).trans (appendFrame_appendAll _ s).cfg
  | exec => exact ⟨_, rfl, (runFrame_runToEnd _).cfg.trans (runFrame_startExec s).cfg⟩
  | feedUnchecked => exact ⟨_, rfl, (runFrame_runToEnd _).cfg.trans (runFrame_startFeed s).cfg⟩
  | recover first last => exact ⟨_, rfl, (runFrame_runToEnd _).cfg.trans (runFrame_startRecover first last s).cfg⟩
  | setSnapshot reg value =>
    refine ⟨_, rfl, ?_⟩
    split <;> rfl
  | ctrlNotPending c => exact ⟨_, rfl, (runFrame_onNotPending s).cfg⟩
  | ctrlFetch c => exact ⟨_, rfl, (runFrame_onAccess false c s).cfg⟩
  | ctrlStore c => exact ⟨_, rfl, (runFrame_onAccess true c s).cfg⟩
  | qInit | setMode | setIsa | reservedCmd9 | reservedCmdAB | reservedCmdCF | nop | lui | ori | j | b =>
    exact ⟨_, rfl, rfl⟩

theorem exec_cfg {i : Instr} {s t : State} (h : exec i s = .next t) : t.cfg = s.cfg := by
  obtain ⟨u, e, cfg⟩ := exec_next_cfg i s
  rw [e] at h
  cases h
  exact cfg

theorem stepCommand_cfg {w0 w1 w2 : Word} {s t : State} (h : stepCommand w0 w1 w2 s = .next t) : t.cfg = s.cfg := by
  unfold stepCommand at h
  split at h
  · exact exec_cfg h
  · cases h; rfl

theorem stepTarget_cfg {w : Word} {s t : State} (h : stepTarget w s = .next t) : t.cfg = s.cfg := by
  unfold stepTarget at h
  split at h
  · cases h
  · split at h
    · exact exec_cfg h
    · cases h

/-- Settles O56: neither an instruction nor a micro-step writes the parameters. -/
theorem noStepWritesTheParameters : Obligations.NoStepWritesTheParameters := by
  intro s t h
  rcases step_cases s with ⟨w0, w1, w2, rest, -, -, e⟩ | ⟨w, rest, -, e⟩ | e <;> rw [e] at h
  · exact stepCommand_cfg (s := s.withInbox rest) h
  · exact stepTarget_cfg (s := s.withInbox rest) h
  · cases h
    exact (runFrame_tick s).cfg

end Sys2Proof.Proofs
end

section
/-! SUPPORT. What a micro-step of a running command comes to, said once: the run goes on under one frame, or it ends by a failure
with a kind of its reason (rule R292), or by success; and the stores it may make, under any policy of store addresses that is
closed below (rules R33, R37, R174, R176, R229). -/

namespace Sys2Proof.Proofs

open Sys2Proof.Machine Sys2Proof.Safety

/-! ## Policies of store addresses -/

/-- The addresses that stores may go to, what of OUT every store to one of them keeps, and a bound on the restarts counted. The
check of a store cycle is on the bounds of its address alone (rule R176), so what is allowed is closed below an allowed address;
the restarts reach RESTART_LIMIT, and 1 by a resync (rules R173, R178; log entry 35). -/
structure StorePolicy where
  cfg : Config
  allowed : Word → Prop
  keeps : Memory → Prop
  restarts : Nat
  allowed_below : ∀ {a b : Word}, allowed b → cfg.paramOutBase.toNat ≤ a.toNat → a.toNat ≤ b.toNat → aligned a = true →
    allowed a
  keeps_write : ∀ {m : Memory} {a : Word} (v : Word), keeps m → allowed a → keeps (m.write (outIndex cfg a) v)
  budget_le : max cfg.restartLimit 1 ≤ restarts

/-- No store is expected at an address, or one that is allowed. -/
abbrev StorePolicy.storeOk (P : StorePolicy) (a : Word) : Prop := a = 0#32 ∨ P.allowed a

/-- The running command keeps to a policy: its program, its bound on store addresses, its deferred read and OUT do (rules R33,
R37); and what holds of every run beside (rules R34, R37, R264). -/
structure Obeys (P : StorePolicy) (s : State) : Prop where
  cfg : s.cfg = P.cfg
  out : P.keeps s.out
  prog : ∀ e ∈ s.run.prog, P.storeOk e.addr
  maxStore : P.storeOk s.exe.maxStoreAddr
  pending : ∀ d, s.exe.pending = some d → P.allowed d.addr
  owner : s.run.ctx ≠ some .execSync → s.exe.pending = none
  recovery : (s.run.ctx.any isRecoveryCtx) = true → s.exe.storePending = 0 ∧ ∀ e ∈ s.run.prog, e.addr = 0#32
  budget : s.exe.restartCount ≤ P.restarts

variable {P : StorePolicy} {s t u : State}

/-- A policy reads the parameters, OUT, E and the running command only. -/
theorem Obeys.congr (h : Obeys P s) (cfg : t.cfg = s.cfg) (out : t.out = s.out) (exe : t.exe = s.exe) (run : t.run = s.run) :
    Obeys P t where
  cfg := cfg ▸ h.cfg
  out := out ▸ h.out
  prog := run ▸ h.prog
  maxStore := exe ▸ h.maxStore
  pending := exe ▸ h.pending
  owner := run ▸ exe ▸ h.owner
  recovery := run ▸ exe ▸ h.recovery
  budget := exe ▸ h.budget

/-! ### Addresses -/

theorem StorePolicy.storeOk_maxAddr {a b : Word} (ha : P.storeOk a) (hb : P.storeOk b) : P.storeOk (maxAddr a b) := by
  unfold maxAddr; split <;> [exact hb; exact ha]

/-- The output window does not begin at address 0 (rule R10). -/
theorem paramOutBase_pos (cfg : Config) : 0 < cfg.paramOutBase.toNat := by
  have sound := cfg.sound
  unfold Params.problem? at sound
  split_ifs at sound with _ _ ordered
  omega

/-- An address that a store cycle's checks let through is allowed (rule R176). -/
theorem StorePolicy.allowed_of_range {a max : Word} (hm : P.storeOk max)
    (low : P.cfg.paramOutBase.toNat ≤ a.toNat) (high : a.toNat ≤ max.toNat) (al : aligned a = true) : P.allowed a := by
  rcases hm with rfl | hm
  · exact absurd (low.trans high) (Nat.not_le.2 (paramOutBase_pos P.cfg))
  · exact P.allowed_below hm low high al

/-- Entry `k` is one of the program's, or the entry (0, 0) beyond it. -/
theorem entryAt_mem_or (prog : List Entry) (k : Nat) : entryAt prog k ∈ prog ∨ (entryAt prog k).addr = 0#32 := by
  unfold entryAt
  rw [List.getD_eq_getElem?_getD]
  cases h : prog[k]? with
  | none => exact .inr rfl
  | some e => exact .inl (List.mem_of_getElem? h)

theorem Obeys.entryAt (h : Obeys P s) (k : Nat) : P.storeOk (entryAt s.run.prog k).addr :=
  (entryAt_mem_or s.run.prog k).elim (h.prog _) .inl

theorem Obeys.entryAt_recovery (h : Obeys P s) (k : Nat) (r : (s.run.ctx.any isRecoveryCtx) = true) :
    (Machine.entryAt s.run.prog k).addr = 0#32 :=
  (entryAt_mem_or s.run.prog k).elim ((h.recovery r).2 _) id

/-- Words stored to allowed addresses, in order (rule R229). -/
theorem StorePolicy.keeps_writeAll {m : Memory} {stage : List (Nat × Word)} (hm : P.keeps m)
    (h : ∀ c ∈ stage, ∃ a, P.allowed a ∧ c.1 = outIndex P.cfg a) : P.keeps (m.writeAll stage) := by
  induction stage generalizing m with
  | nil => exact hm
  | cons c cs ih =>
    obtain ⟨a, allowed, index⟩ := h c List.mem_cons_self
    have kept : P.keeps (m.write c.1 c.2) := index ▸ P.keeps_write c.2 hm allowed
    exact ih kept fun d hd => h d (List.mem_cons_of_mem _ hd)

/-! ## How a run goes on and ends -/

/-- From `s` the run goes on to `t`, in its own context: of S only what was last observed changes, LOG stays, and so does OUT but
in a synchronous EXEC. -/
structure GoesOn (P : StorePolicy) (s t : State) : Prop where
  obeys : Obeys P t
  ctx : t.run.ctx = s.run.ctx
  ses : t.ses = { s.ses with lastCtrl := t.ses.lastCtrl, lastAddr := t.ses.lastAddr }
  log : t.log = s.log
  out : s.run.ctx ≠ some .execSync → t.out = s.out

theorem GoesOn.refl (h : Obeys P s) : GoesOn P s s := ⟨h, rfl, rfl, rfl, fun _ => rfl⟩

theorem GoesOn.trans (h : GoesOn P s t) (k : GoesOn P t u) : GoesOn P s u where
  obeys := k.obeys
  ctx := k.ctx.trans h.ctx
  ses := by rw [k.ses, h.ses]
  log := k.log.trans h.log
  out c := (k.out (h.ctx ▸ c)).trans (h.out c)

theorem GoesOn.andThen (g : GoesOn P s t) (next : Obeys P t → GoesOn P t u) : GoesOn P s u := g.trans (next g.obeys)

theorem goesOn_of_portOnly (f : PortOnly s t) (h : Obeys P s) : GoesOn P s t :=
  ⟨h.congr f.cfg f.out f.exe f.run, by rw [f.run], by rw [f.ses], f.log, fun _ => f.out⟩

theorem goesOn_withExe {x : Executor} (h : Obeys P (s.withExe x)) : GoesOn P s (s.withExe x) :=
  ⟨h, rfl, rfl, rfl, fun _ => rfl⟩

theorem goesOn_waitAt (h : Obeys P s) (p : Point) : GoesOn P s (s.waitAt p) :=
  ⟨{ h with }, rfl, rfl, rfl, fun _ => rfl⟩

theorem goesOn_noteObserved (h : Obeys P s) (c a : Word) : GoesOn P s (noteObserved c a s) :=
  ⟨{ h with }, rfl, rfl, rfl, fun _ => rfl⟩

/-- What a running command at `s` comes to: it goes on; it fails with a kind of its reason (rule R292); it succeeds with no read
deferred; or its batch is committed and it succeeds (rules R187, R229, R230, R260, R290). -/
inductive Reaction (P : StorePolicy) (s : State) : State → Prop where
  | goes {t : State} (h : GoesOn P s t) : Reaction P s t
  | fails {u : State} {k : Kind} {r : Reason} (h : GoesOn P s u) (kind : k ∈ r.kinds) : Reaction P s (raise k r u)
  | passes {u : State} (h : GoesOn P s u) (resolved : s.run.ctx = some .execSync → u.exe.pending = none) :
    Reaction P s (succeed u)
  | commits {u : State} {m : Memory} (h : GoesOn P s u) (batched : s.run.ctx = some .execBatched) (kept : P.keeps m) :
    Reaction P s (succeed ((u.withOut m).withLog []))

/-- A reaction of a run that has gone on is one of the run before. -/
theorem Reaction.after (h : GoesOn P s t) (k : Reaction P t u) : Reaction P s u := by
  cases k with
  | goes g => exact .goes (h.trans g)
  | fails g kind => exact .fails (h.trans g) kind
  | passes g resolved => exact .passes (h.trans g) (h.ctx ▸ resolved)
  | commits g batched kept => exact .commits (h.trans g) (h.ctx ▸ batched) kept

theorem Reaction.andThen (g : GoesOn P s t) (react : Obeys P t → Reaction P t u) : Reaction P s u := .after g (react g.obeys)

theorem Reaction.fail (h : Obeys P s) {k : Kind} {r : Reason} (kind : k ∈ r.kinds) : Reaction P s (raise k r s) :=
  .fails (.refl h) kind

theorem Reaction.waits (h : Obeys P s) (p : Point) : Reaction P s (s.waitAt p) := .goes (goesOn_waitAt h p)

/-! ## The synchronous executor -/

theorem mismatchKind_mem_fetchMismatch (m : Mismatch) : m.kind ∈ Reason.fetchMismatch.kinds := by cases m <;> decide

theorem exhaustedKind_mem (m : Option Mismatch) : exhaustedKind m ∈ Reason.restartExhausted.kinds := by
  cases m with
  | none => decide
  | some m => exact mismatchKind_mem_fetchMismatch m

theorem goesOn_resetAttempt (h : Obeys P s) : GoesOn P s (resetAttempt s) :=
  goesOn_withExe { h with maxStore := .inl rfl, recovery := fun r => ⟨rfl, (h.recovery r).2⟩ }

theorem goesOn_endFlush (h : Obeys P s) (budget : s.exe.restartCount < s.cfg.restartLimit) : GoesOn P s (endFlush s) := by
  unfold endFlush
  refine GoesOn.andThen (GoesOn.andThen ?_ goesOn_resetAttempt) fun h => goesOn_waitAt h _
  rw [h.cfg] at budget
  exact goesOn_withExe { h with budget := (le_max_of_le_left budget).trans P.budget_le }

theorem goesOn_flushExtra (h : Obeys P s) (budget : s.exe.restartCount < s.cfg.restartLimit) (j : Nat) :
    GoesOn P s (flushExtra j s) := by
  unfold flushExtra; split <;> [exact goesOn_waitAt h _; exact goesOn_endFlush h budget]

theorem goesOn_flushFrom (h : Obeys P s) (budget : s.exe.restartCount < s.cfg.restartLimit) (i : Nat) :
    GoesOn P s (flushFrom i s) := by
  unfold flushFrom; split <;> [exact goesOn_waitAt h _; exact goesOn_flushExtra h budget _]

theorem goesOn_feed_finish (h : Obeys P s) (w : Word) : GoesOn P s (finish (feed w s)) :=
  goesOn_of_portOnly ((portOnly_feed w s).trans (portOnly_finish _)) h

theorem reaction_loopTop (h : Obeys P s) : Reaction P s (loopTop s) := by
  unfold loopTop
  split
  case isTrue =>
    split
    case isTrue => exact .fail h (exhaustedKind_mem _)
    case isFalse budget => exact .goes (goesOn_flushFrom h (Nat.lt_of_not_le budget) 0)
  case isFalse => exact .waits h _

/-- Only a synchronous EXEC has a read to resolve (rule R37). -/
theorem goesOn_resolvePending (h : Obeys P s) : GoesOn P s (resolvePending s) := by
  unfold resolvePending
  split
  case h_1 => exact .refl h
  case h_2 d pending =>
    have kept : P.keeps (s.out.write (outIndex s.cfg d.addr) (capturedWord s d.handle)) := by
      rw [h.cfg]; exact P.keeps_write _ h.out (h.pending d pending)
    have obeys : Obeys P ((s.withOut (s.out.write (outIndex s.cfg d.addr) (capturedWord s d.handle))).withExe
        { s.exe with pending := none }) :=
      { h with out := kept, pending := fun _ e => (by cases e), owner := fun _ => rfl }
    exact ⟨obeys, rfl, rfl, rfl, fun c => absurd ((h.owner c).symm.trans pending) (by simp)⟩

theorem reaction_finishExchange (h : Obeys P s) : Reaction P s (finishExchange s) := by
  unfold finishExchange
  refine .andThen (goesOn_of_portOnly (portOnly_finish s) h) fun h => ?_
  simp only
  split <;> [exact .waits h _; exact reaction_loopTop h]

/-- A synchronous run that expects a store is an EXEC: the recovery program stores nothing (rule R264). -/
theorem Obeys.execSync_of_expected (h : Obeys P s) (sync : syncRun s) (expected : s.exe.storePending ≠ 0) :
    s.run.ctx = some .execSync := by
  have noRecovery : ¬ (s.run.ctx.any isRecoveryCtx) = true := fun r => expected (h.recovery r).1
  unfold syncRun at sync
  cases hc : s.run.ctx with
  | none => rw [hc] at sync; cases sync
  | some c =>
    rw [hc] at sync noRecovery
    cases c with
    | execSync => rfl
    | execBatched | feed => cases sync
    | recover | exitRecovery => exact absurd rfl noRecovery

/-- A store cycle fails, or defers a read at an allowed address (rule R176). -/
theorem reaction_storeCycle (h : Obeys P s) (sync : syncRun s) (a : Word) : Reaction P s (storeCycle a s) := by
  unfold storeCycle
  split
  case isTrue => exact .fail h (by decide)
  case isFalse expected =>
    split
    case isTrue => exact .fail h (by decide)
    case isFalse range =>
      split
      case isTrue => exact .fail h (by decide)
      case isFalse al =>
        have exec := h.execSync_of_expected sync expected
        obtain ⟨low, high⟩ := not_or.1 range
        have allowed : P.allowed a :=
          P.allowed_of_range h.maxStore (h.cfg ▸ Nat.le_of_not_lt low) (Nat.le_of_not_lt high)
            (Bool.eq_true_of_not_eq_false al)
        have captured := goesOn_of_portOnly (portOnly_capture s) h
        refine .andThen ?_ reaction_finishExchange
        exact captured.trans (goesOn_withExe
          { captured.obeys with
            pending := fun d e => by cases e; exact allowed
            owner := fun c => absurd exec c
            recovery := fun r => absurd (h.recovery r).1 expected })

/-- A fetch mismatch takes the resync, which spends at most a first restart, a restart, or fails (rules R178, R179). -/
theorem reaction_fetchMismatch (h : Obeys P s) (a : Word) : Reaction P s (fetchMismatch a s) := by
  unfold fetchMismatch
  split
  case isTrue taken =>
    simp only [resyncs, Bool.and_eq_true, beq_iff_eq] at taken
    obtain ⟨⟨-, first⟩, -⟩ := taken
    refine .andThen (GoesOn.andThen ?_ goesOn_resetAttempt) reaction_loopTop
    refine goesOn_withExe { h with budget := ?_ }
    have := (le_max_right ..).trans P.budget_le
    simp only [State.withExe_exe, first]
    split <;> omega
  case isFalse =>
    split
    case isTrue =>
      refine .andThen ?_ reaction_loopTop
      exact goesOn_withExe { h with }
    case isFalse => exact .fail h (mismatchKind_mem_fetchMismatch _)

/-- The bookkeeping of an entry's store address, and its feed (rules R33, R180). -/
theorem reaction_feedEntry (h : Obeys P s) : Reaction P s (feedEntry s) := by
  have entry := h.entryAt s.exe.codeCount
  have plain := h.entryAt_recovery s.exe.codeCount
  unfold feedEntry
  generalize Machine.entryAt s.run.prog s.exe.codeCount = e at entry plain
  have booked : GoesOn P s (s.withExe
      { s.exe with
        maxStoreAddr := if e.addr != 0#32 then maxAddr s.exe.maxStoreAddr e.addr else s.exe.maxStoreAddr
        storePending := if e.addr != 0#32 then s.exe.storePending + 1 else s.exe.storePending }) := by
    refine goesOn_withExe { h with maxStore := ?_, recovery := fun r => ⟨?_, (h.recovery r).2⟩ }
    · simp only [State.withExe_exe]
      split <;> [exact StorePolicy.storeOk_maxAddr h.maxStore entry; exact h.maxStore]
    · simp only [State.withExe_exe, plain r, bne_self_eq_false, Bool.false_eq_true, if_false]
      exact (h.recovery r).1
  have fed := booked.trans (goesOn_of_portOnly (portOnly_feed e.instr _) booked.obeys)
  refine .andThen ?_ reaction_finishExchange
  exact fed.trans (goesOn_withExe { fed.obeys with })

/-- A pad that is fed, or one too many (rules R183, R184). -/
theorem reaction_padFetch (h : Obeys P s) : Reaction P s (padFetch s) := by
  unfold padFetch
  split
  case isTrue => exact .fail h (by decide)
  case isFalse =>
    split
    case isTrue => exact .fail h (by decide)
    case isFalse =>
      have fed := goesOn_of_portOnly (portOnly_feed (nopFor s.ses.isa) s) h
      refine .andThen ?_ reaction_finishExchange
      exact fed.trans (goesOn_withExe { fed.obeys with })

theorem reaction_fetchFinal (h : Obeys P s) (a : Word) : Reaction P s (fetchFinal a s) := by
  unfold fetchFinal
  split
  case isTrue =>
    split
    case isTrue => exact .fail h (by decide)
    case isFalse =>
      split
      case isTrue => exact .waits h _
      case isFalse =>
        refine .andThen ?_ reaction_padFetch
        exact goesOn_withExe { h with }
  case isFalse =>
    split
    case isTrue => exact .fail h (by decide)
    case isFalse => exact reaction_padFetch h

theorem reaction_cycle (h : Obeys P s) (sync : syncRun s) (isStore : Bool) (c a : Word) :
    Reaction P s (cycle isStore c a s) := by
  have noted := goesOn_noteObserved h c a
  have resolved := noted.trans (goesOn_resolvePending noted.obeys)
  unfold cycle
  simp only
  refine .after resolved ?_
  split
  case isTrue => exact reaction_storeCycle resolved.obeys (by rw [syncRun, resolved.ctx]; exact sync) a
  case isFalse =>
    split
    case isTrue =>
      unfold fetchExecuting
      split <;> [exact reaction_feedEntry resolved.obeys; exact reaction_fetchMismatch resolved.obeys a]
    case isFalse => exact reaction_fetchFinal resolved.obeys a

/-- A round of FLUSH's extra loop feeds NOP, or ends FLUSH (rule R152). -/
theorem goesOn_extraRound (h : Obeys P s) (budget : s.exe.restartCount < s.cfg.restartLimit) (j : Nat) (c a : Word) :
    GoesOn P s (extraRound j c a s) := by
  unfold extraRound
  refine (goesOn_noteObserved h c a).andThen fun h => ?_
  simp only
  split
  case isTrue => exact goesOn_endFlush h budget
  case isFalse => exact (goesOn_feed_finish h _).andThen fun h => goesOn_flushExtra h budget _

theorem reaction_drained (h : Obeys P s) : Reaction P s (drained s) := by
  have resolved := goesOn_resolvePending h
  have passed := resolved.trans
    (goesOn_withExe (x := { (resolvePending s).exe with phase := .passed }) { resolved.obeys with })
  refine .passes passed fun _ => ?_
  rw [State.withPhase_exe, resolvePending_exe]

/-! ## The batched executor -/

/-- The STORE slots of a plan are those of flagged entries (rule R222). -/
theorem addr_ne_of_mem_buildSlots {cfg : Config} {prog : List Entry} {slot : Slot} (h : slot ∈ buildSlots cfg prog)
    (store : slot.isStore = true) : (entryAt prog slot.k).addr ≠ 0#32 := by
  obtain ⟨k, -, mem⟩ := List.mem_flatMap.1 h
  unfold slotsAt at mem
  rcases List.mem_cons.1 mem with rfl | mem
  · cases store
  · split at mem <;> split at mem
    case h_1.isTrue flagged => cases List.mem_singleton.1 mem; exact flagged
    case h_2.isTrue flagged => cases List.mem_singleton.1 mem; exact flagged.2
    all_goals cases mem

/-- A record that fails its check fails with a kind of its reason (rules R227, R292). -/
theorem checkSlot_kind {cfg : Config} {prog : List Entry} {slot : Slot} {r : Record} {k : Kind} {why : Reason}
    (h : checkSlot cfg prog slot r = some (k, why)) : k ∈ why.kinds := by
  cases checkSlot_eq_some_iff.1 h <;> decide

/-- A replay goes on through the records; a failure has a kind of its reason, and what is staged is at allowed addresses (rules
R226, R229). -/
theorem goesOn_replay {log : List (Slot × Record)} {stage : List (Nat × Word)} (h : Obeys P s)
    (planned : ∀ p ∈ log, p.1.isStore = true → (entryAt s.run.prog p.1.k).addr ≠ 0#32)
    (staged : ∀ c ∈ stage, ∃ a, P.allowed a ∧ c.1 = outIndex P.cfg a) :
    GoesOn P s (replay log stage s).2.2 ∧
      (∀ k r, (replay log stage s).1 = some (k, r) → k ∈ r.kinds) ∧
      ∀ c ∈ (replay log stage s).2.1, ∃ a, P.allowed a ∧ c.1 = outIndex P.cfg a := by
  induction log generalizing stage s with
  | nil => exact ⟨.refl h, fun k r e => (by cases e), staged⟩
  | cons p rest ih =>
    obtain ⟨slot, r⟩ := p
    have seen : GoesOn P s (s.withSes { s.ses with lastCtrl := r.ctrl, lastAddr := r.addr }) :=
      ⟨{ h with }, rfl, rfl, rfl, fun _ => rfl⟩
    have later := fun p hp => planned p (List.mem_cons_of_mem _ hp)
    unfold replay
    simp only
    split
    case h_1 failure check => exact ⟨seen, fun k why e => by cases e; exact checkSlot_kind check, staged⟩
    case h_2 check =>
      split
      case isTrue store =>
        have allowed : P.allowed r.addr := by
          have passes := checkSlot_eq_none_iff.1 check
          rw [SlotPasses, if_pos store] at passes
          obtain ⟨-, addr⟩ := passes
          exact (addr ▸ h.entryAt slot.k).resolve_left (addr ▸ planned _ List.mem_cons_self store)
        obtain ⟨goes, kinds, stage'⟩ := ih (stage := stage ++ [(outIndex s.cfg r.addr, r.data)]) seen.obeys later
          fun c hc => (List.mem_append.1 hc).elim (staged c) fun hc => by
            cases List.mem_singleton.1 hc
            exact ⟨r.addr, allowed, by rw [h.cfg]⟩
        exact ⟨seen.trans goes, kinds, stage'⟩
      case isFalse =>
        have counted := seen.trans (goesOn_withExe
          (x := { s.exe with codeCount := slot.k + 1 }) { seen.obeys with })
        obtain ⟨goes, kinds, stage'⟩ := ih counted.obeys later staged
        exact ⟨counted.trans goes, kinds, stage'⟩

/-- The error exit of a batched EXEC empties LOG, whatever was in it (rule R298). -/
theorem raise_withLog {k : Kind} {r : Reason} (batched : s.run.ctx = some .execBatched) (l : List Record) :
    raise k r (s.withLog l) = raise k r s := by
  unfold raise
  rw [State.withLog_run, batched]
  rfl

/-- The batch fails with the records' kind and reason, or is committed (rules R226, R229, R230). -/
theorem reaction_batchRan (h : Obeys P s) (batched : s.run.ctx = some .execBatched) {plan : List (Slot × Nat)}
    (planned : plan.map Prod.fst = buildSlots s.cfg s.run.prog) : Reaction P s (batchRan plan s) := by
  unfold batchRan
  simp only
  generalize hl : plan.map (fun p => (p.1, capturedRecord s p.2)) = log
  have stores : ∀ p ∈ log, p.1.isStore = true → (entryAt s.run.prog p.1.k).addr ≠ 0#32 := by
    intro p hp store
    obtain ⟨q, hq, rfl⟩ := List.mem_map.1 (hl ▸ hp)
    exact addr_ne_of_mem_buildSlots (planned ▸ List.mem_map_of_mem hq) store
  obtain ⟨goes, kinds, staged⟩ := goesOn_replay (s := s.withLog (log.map Prod.snd)) (stage := []) { h with } stores
    fun c hc => by cases hc
  have restored {v : State} (g : GoesOn P (s.withLog (log.map Prod.snd)) v) : GoesOn P s (v.withLog s.log) :=
    ⟨{ g.obeys with }, g.ctx, g.ses, rfl, g.out⟩
  split
  case h_1 k r stage v e =>
    rw [e] at goes kinds
    rw [← raise_withLog (goes.ctx.trans batched) s.log]
    exact .fails (restored goes) (kinds k r rfl)
  case h_2 stage v e =>
    rw [e] at goes staged
    have passed := (restored goes).trans
      (goesOn_withExe (x := { v.exe with phase := .passed }) { (restored goes).obeys with })
    exact .commits passed batched (StorePolicy.keeps_writeAll goes.obeys.out staged)

/-! ## The micro-step -/

theorem goesOn_feedFrom (h : Obeys P s) (k : Nat) : GoesOn P s (feedFrom k s) := by
  unfold feedFrom; split <;> exact goesOn_waitAt h _

theorem reaction_onNotPending (h : Obeys P s) : Reaction P s (onNotPending s) := by
  unfold onNotPending
  split
  · split <;> [exact .fail h (by decide); exact .waits h _]
  all_goals exact .goes (.refl h)

theorem goesOn_onAccess (h : Obeys P s) (point : pointOk s) (isStore : Bool) (c : Word) :
    GoesOn P s (onAccess isStore c s) := by
  unfold onAccess
  unfold pointOk at point
  split
  case h_3 i polls hp =>
    rw [hp] at point
    obtain ⟨⟨-, -, budget, -, -⟩, -⟩ := point
    exact (goesOn_feed_finish h _).andThen fun h => goesOn_flushFrom h budget _
  case h_4 => exact (goesOn_feed_finish h _).andThen fun h => goesOn_feedFrom h _
  case h_1 | h_2 => exact goesOn_waitAt h _
  all_goals exact .refl h

theorem reaction_onControl (h : Obeys P s) (point : pointOk s) (c : Word) : Reaction P s (onControl c s) := by
  unfold onControl
  split
  · exact reaction_onNotPending h
  all_goals exact .goes (goesOn_onAccess h point ..)

theorem reaction_onAddress (h : Obeys P s) (point : pointOk s) {w : Wait} {isStore : Bool} {c : Word}
    (hp : s.run.point = .addr w isStore c) (a : Word) : Reaction P s (onAddress w isStore c a s) := by
  unfold pointOk at point
  rw [hp] at point
  cases w with
  | cycle => exact reaction_cycle h point.1 isStore c a
  | extra j =>
    obtain ⟨⟨-, -, budget, -, -⟩, -⟩ := point
    exact .goes (goesOn_extraRound h budget j c a)
  | flush i => exact point.elim
  | feed k => exact point.elim

/-- What a micro-step comes to (rule R6). -/
theorem reaction_tick (h : Obeys P s) (point : pointOk s) : Reaction P s (tick s) := by
  have after {t u : State} (f : PortOnly s t) (react : Obeys P t → pointOk t → Reaction P t u) : Reaction P s u :=
    .after (goesOn_of_portOnly f h) (react (h.congr f.cfg f.out f.exe f.run) ((portOnly_pointOk f).2 point))
  have fails {t : State} (f : PortOnly s t) : Reaction P s (raise .transport .transport t) :=
    after f fun h _ => .fail h (by decide)
  unfold tick
  split
  case h_1 => exact .goes (.refl h)
  case h_2 w polls hp =>
    rcases scanControl_cases polls s with ⟨t, e, f⟩ | ⟨c, t, e, f⟩ <;> rw [e]
    · exact fails f
    · exact after f fun h point => reaction_onControl h point c
  case h_3 w isStore c hp =>
    rcases scanAddress_cases s with ⟨t, e, f⟩ | ⟨a, t, e, f⟩ <;> rw [e]
    · exact fails f
    · exact after f fun h point => reaction_onAddress h point (f.run ▸ hp) a
  all_goals
    rcases execQueued_cases s with ⟨t, e, f⟩ | ⟨t, e, f⟩ <;> rw [e]
    · exact fails f
  case h_4.inr => exact after f fun h _ => reaction_drained h
  case h_5.inr hp =>
    refine after f fun h point => .passes (.refl h) fun exec => ?_
    unfold pointOk at point
    rw [f.run, hp] at point
    exact absurd (point.1.symm.trans (f.run ▸ exec)) (by decide)
  case h_6.inr plan hp =>
    refine after f fun h point => ?_
    unfold pointOk at point
    rw [f.run, hp] at point
    obtain ⟨batched, -, planned⟩ := point
    exact reaction_batchRan h (f.run ▸ batched) (f.run ▸ planned)

end Sys2Proof.Proofs
end

section
/-! SUPPORT. The invariant of every step: it holds at session open, and the reactions of a running command and every command keep
it; and the stores of EXEC, under the policy of its highest store address. -/

namespace Sys2Proof.Proofs

open Sys2Proof.Machine Sys2Proof.Safety

variable {P : StorePolicy} {s t : State}

/-! ## Ends and starts of runs under a policy -/

/-- A command ends with no read deferred. -/
theorem obeys_endCommand (h : Obeys P s) (resolved : s.exe.pending = none) (k : Kind) : Obeys P (endCommand k s) :=
  { h with
    prog := fun e he => by cases he
    owner := fun _ => resolved
    recovery := fun r => by cases r }

/-- The entries of the recovery program expect no store (rule R264). -/
theorem recoveryProgram_addr {isa : Isa} {snap : SnapFile} {first last : RegNum} {e : Entry}
    (h : e ∈ recoveryProgram isa snap first last) : e.addr = 0#32 := by
  unfold recoveryProgram at h
  simp only at h
  split at h
  · cases h
  · obtain ⟨w, -, rfl⟩ := List.mem_map.1 h
    rfl

/-- The runs of an executor start with E initialised (rules R171, R221). -/
theorem obeys_start (cfg : s.cfg = P.cfg) (out : P.keeps s.out) {p : Phase} {run : Run}
    (stores : ∀ e ∈ run.prog, P.storeOk e.addr)
    (recovery : (run.ctx.any isRecoveryCtx) = true → ∀ e ∈ run.prog, e.addr = 0#32) :
    Obeys P ((s.withExe { Executor.reset with phase := p }).withRun run) where
  cfg := cfg
  out := out
  prog := stores
  maxStore := .inl rfl
  pending := fun d e => by cases e
  owner := fun _ => rfl
  recovery := fun r => ⟨rfl, recovery r⟩
  budget := Nat.zero_le _

theorem obeys_startSync (cfg : s.cfg = P.cfg) (out : P.keeps s.out) {ctx : Ctx} {prog : List Entry}
    (stores : ∀ e ∈ prog, P.storeOk e.addr) (recovery : isRecoveryCtx ctx = true → ∀ e ∈ prog, e.addr = 0#32) :
    Obeys P (startSync ctx prog s) :=
  obeys_start cfg out stores recovery

/-- What ERROR_EXIT does: it records the failure, with a downgrade for a batched EXEC, and ends the command or starts the recovery
of an EXEC (rules R298, R300). -/
theorem errorExit_cases (ctx : Option Ctx) (k : Kind) (r : Reason) (s : State) :
    ∃ b : Bool, (b = true → ctx = some .execBatched) ∧
      (errorExit ctx k r s = endCommand k (recordFailure b r s) ∨
        (ctx = some .execSync ∨ ctx = some .execBatched) ∧
          errorExit ctx k r s =
            startSync (.exitRecovery k) (recoveryProgram s.ses.isa s.ses.snap 0 31) (recordFailure b r s)) := by
  have start (b : Bool) {t : State}
      (e : t = if k.recovers then startRecovery (.exitRecovery k) 0 31 (endCommand k) (recordFailure b r s)
        else endCommand k (recordFailure b r s)) :
      t = endCommand k (recordFailure b r s) ∨
        t = startSync (.exitRecovery k) (recoveryProgram s.ses.isa s.ses.snap 0 31) (recordFailure b r s) := by
    have f := runFrame_recordFailure b r s
    rcases startRecovery_cases (.exitRecovery k) 0 31 (endCommand k) (recordFailure b r s) with ⟨-, e'⟩ | ⟨-, e'⟩ <;>
      rw [e'] at e <;> rw [e]
    · exact .inl (ite_self _)
    · rw [f.isa, f.snap]
      split <;> [exact .inr rfl; exact .inl rfl]
  cases ctx with
  | none => exact ⟨false, Bool.noConfusion, .inl rfl⟩
  | some c =>
    cases c with
    | execSync => exact ⟨false, Bool.noConfusion, (start false rfl).imp_right fun e => ⟨.inl rfl, e⟩⟩
    | execBatched => exact ⟨true, fun _ => rfl, (start true rfl).imp_right fun e => ⟨.inr rfl, e⟩⟩
    | feed | recover | exitRecovery => exact ⟨false, Bool.noConfusion, .inl rfl⟩

theorem obeys_errorExit (h : Obeys P s) (ctx : Option Ctx) (k : Kind) (r : Reason) : Obeys P (errorExit ctx k r s) := by
  obtain ⟨b, -, e | ⟨-, e⟩⟩ := errorExit_cases ctx k r s <;> rw [e]
  · have recorded : Obeys P (recordFailure b r s) ∧ (recordFailure b r s).exe.pending = none := by
      cases b <;> exact ⟨{ h with pending := fun d e => (by cases e), owner := fun _ => rfl }, rfl⟩
    exact obeys_endCommand recorded.1 recorded.2 k
  · have out : (recordFailure b r s).out = s.out := by cases b <;> rfl
    exact obeys_startSync ((runFrame_recordFailure b r s).cfg.trans h.cfg) (out ▸ h.out)
      (fun e he => .inl (recoveryProgram_addr he)) fun _ e he => recoveryProgram_addr he

theorem noteRecovery_exe (ok : Bool) (first last : RegNum) (s : State) : (noteRecovery ok first last s).exe = s.exe := by
  unfold noteRecovery; split <;> [split <;> rfl; rfl]

theorem obeys_noteRecovery (h : Obeys P s) (ok : Bool) (first last : RegNum) : Obeys P (noteRecovery ok first last s) := by
  unfold noteRecovery
  split
  · split <;> exact { h with }
  · exact { h with }

theorem obeys_raise (h : Obeys P s) (k : Kind) (r : Reason) : Obeys P (raise k r s) := by
  unfold raise
  split
  case h_2 c =>
    refine obeys_endCommand (obeys_noteRecovery h ..) ?_ _
    rw [noteRecovery_exe]
    exact h.owner (by rw [c]; simp)
  case h_1 => exact obeys_errorExit (obeys_noteRecovery h ..) ..
  all_goals exact obeys_errorExit h ..

theorem obeys_succeed (h : Obeys P s) (resolved : s.run.ctx = some .execSync → s.exe.pending = none) :
    Obeys P (succeed s) := by
  have noRead : s.exe.pending = none := (em (s.run.ctx = some .execSync)).elim resolved h.owner
  have noted (first last : RegNum) (k : Kind) : Obeys P (endCommand k (noteRecovery true first last s)) :=
    obeys_endCommand (obeys_noteRecovery h ..) (by rw [noteRecovery_exe, noRead]) k
  unfold succeed
  split
  case h_1 | h_2 => exact noted ..
  all_goals exact obeys_endCommand h noRead _

/-- A running command keeps to its policy. -/
theorem Reaction.obeys (k : Reaction P s t) : Obeys P t := by
  cases k with
  | goes g => exact g.obeys
  | fails g => exact obeys_raise g.obeys ..
  | passes g resolved => exact obeys_succeed g.obeys (g.ctx ▸ resolved)
  | @commits u m g batched kept =>
    refine obeys_succeed (s := (u.withOut m).withLog []) { g.obeys with out := kept } fun sync => ?_
    exact absurd (g.ctx.symm.trans sync) (by rw [batched]; simp)

/-! ## LOG -/

theorem errorExit_log (ctx : Option Ctx) (k : Kind) (r : Reason) (s : State) : (errorExit ctx k r s).log = [] := by
  obtain ⟨b, -, e | ⟨-, e⟩⟩ := errorExit_cases ctx k r s <;> rw [e] <;> cases b <;> rfl

theorem noteRecovery_log (ok : Bool) (first last : RegNum) (s : State) : (noteRecovery ok first last s).log = s.log := by
  unfold noteRecovery; split <;> [split <;> rfl; rfl]

theorem raise_log (h : s.log = []) (k : Kind) (r : Reason) : (raise k r s).log = [] := by
  unfold raise
  split
  case h_2 => exact (noteRecovery_log ..).trans h
  all_goals exact errorExit_log ..

theorem succeed_log (s : State) : (succeed s).log = s.log := by
  unfold succeed
  split
  case h_1 | h_2 => exact noteRecovery_log ..
  all_goals rfl

/-- LOG is empty after every micro-step (rules R40, R229). -/
theorem Reaction.log (k : Reaction P s t) (h : s.log = []) : t.log = [] := by
  cases k with
  | goes g => exact g.log.trans h
  | fails g => exact raise_log (g.log.trans h) ..
  | passes g => exact (succeed_log _).trans (g.log.trans h)
  | commits => exact succeed_log _

/-! ## The invariant -/

/-- The policy of the invariant: stores go to valid addresses, and OUT keeps its form (rules R39, R63, R112). -/
def validPolicy (cfg : Config) : StorePolicy where
  cfg := cfg
  allowed a := validStoreAddr cfg a = true
  keeps m := m.wf ∧ ∀ c ∈ m, c.1 < cfg.paramOutWords
  allowed_below {a b} valid low high al := by
    rw [validStoreAddr_iff] at valid ⊢
    exact ⟨(aligned_iff a).1 al, low, high.trans_lt valid.2.2⟩
  restarts := max cfg.restartLimit 1
  budget_le := le_rfl
  keeps_write v kept valid := by
    refine ⟨Memory.wf_write kept.1 .., fun c hc => ?_⟩
    rcases Memory.mem_write hc with ⟨rfl, -⟩ | hc
    · exact outIndex_lt valid
    · exact kept.2 c hc

/-- The invariant, as what a run keeps: Q, the policy, the position and LOG. -/
theorem stepInv_iff : StepInv s ↔ QueueInv s ∧ Obeys (validPolicy s.cfg) s ∧ pointOk s ∧ s.log = [] := by
  constructor
  · rintro ⟨queue, ⟨wf, inside⟩, run, log⟩
    exact ⟨queue, { run with cfg := rfl, out := ⟨wf, inside⟩ }, run.point, log⟩
  · rintro ⟨queue, obeys, point, log⟩
    exact ⟨queue, ⟨obeys.out.1, obeys.out.2⟩, { obeys with point := point }, log⟩

theorem stepInv_resetWith (cfg : Config) : StepInv (State.resetWith cfg) where
  queue :=
    { count := rfl
      addrs := fun e he => by cases he
      room := fun n _ => Nat.zero_le n }
  out :=
    { wf := ⟨.nil, fun c hc => by cases hc⟩
      inside := fun c hc => by cases hc }
  run :=
    { point := ⟨rfl, rfl⟩
      prog := fun e he => by cases he
      maxStore := .inl rfl
      pending := fun d hd => by cases hd
      owner := fun _ => rfl
      recovery := fun r => by cases r
      budget := Nat.zero_le _ }
  log := rfl

/-- Settles O2: E is initialised, and every list is empty. -/
theorem resetMeetsTheInvariant : Obligations.ResetMeetsTheInvariant := fun cfg =>
  ⟨stepInv_resetWith cfg, ⟨rfl, rfl, rfl, rfl, rfl⟩⟩

/-- With no command running there is no context and no program. -/
theorem run_of_idle (h : pointOk s) (idle : s.run.point = .idle) : s.run = .reset := by
  unfold pointOk at h
  rw [idle] at h
  exact h.1

theorem pointOk_tick (h : pointOk s) : pointOk (tick s) := by
  by_cases idle : s.run.point = .idle
  · rwa [tick_idle idle]
  · exact (tick_closer h idle).point

/-- Q and its parameters stay as they were. -/
theorem queueInv_congr (h : QueueInv s) (que : t.que = s.que) (cfg : t.cfg = s.cfg) : QueueInv t :=
  ⟨que ▸ h.count, que ▸ cfg ▸ h.addrs, que ▸ cfg ▸ h.room⟩

/-- A run's operations keep the invariant where they keep the policy, the position and LOG. -/
theorem stepInv_of_runFrame (h : StepInv s) (f : RunFrame s t) (obeys : Obeys (validPolicy s.cfg) t) (point : pointOk t)
    (log : t.log = []) : StepInv t :=
  stepInv_iff.2 ⟨queueInv_congr h.queue f.que f.cfg, f.cfg ▸ obeys, point, log⟩

theorem stepInv_tick (h : StepInv s) : StepInv (tick s) := by
  obtain ⟨-, obeys, point, log⟩ := stepInv_iff.1 h
  have react := reaction_tick obeys point
  exact stepInv_of_runFrame h (runFrame_tick s) react.obeys (pointOk_tick point) (react.log log)

/-! ### The commands -/

theorem stepInv_errorExit (h : StepInv s) (k : Kind) (r : Reason) : StepInv (errorExit none k r s) := by
  obtain ⟨-, obeys, -, -⟩ := stepInv_iff.1 h
  exact stepInv_of_runFrame h (runFrame_errorExit ..) (obeys_errorExit obeys ..) ⟨rfl, rfl⟩ rfl

theorem pointOk_congr (hc : t.cfg = s.cfg) (he : t.exe = s.exe) (hr : t.run = s.run) : pointOk t ↔ pointOk s := by
  unfold pointOk toObserve flushing syncRun
  rw [hr, he, hc]

/-- The invariant reads nothing of S, the scan port, the inputs, the inbox or the target view. -/
theorem stepInv_congr (h : StepInv s) (queue : QueueInv t) (cfg : t.cfg = s.cfg) (exe : t.exe = s.exe) (out : t.out = s.out)
    (log : t.log = s.log) (run : t.run = s.run) : StepInv t := by
  obtain ⟨-, obeys, point, logged⟩ := stepInv_iff.1 h
  exact stepInv_iff.2 ⟨queue, cfg ▸ obeys.congr cfg out exe run, (pointOk_congr cfg exe run).2 point, log.trans logged⟩

theorem stepInv_withSes (h : StepInv s) (x : Session) : StepInv (s.withSes x) :=
  stepInv_congr h { h.queue with } rfl rfl rfl rfl rfl

theorem stepInv_withInbox (h : StepInv s) (x : List Msg) : StepInv (s.withInbox x) :=
  stepInv_congr h { h.queue with } rfl rfl rfl rfl rfl

theorem stepInv_withTarget (h : StepInv s) (x : Target) : StepInv (s.withTarget x) :=
  stepInv_congr h { h.queue with } rfl rfl rfl rfl rfl

theorem stepInv_withQue (h : StepInv s) {q : Queue} (queue : QueueInv (s.withQue q)) : StepInv (s.withQue q) :=
  stepInv_congr h queue rfl rfl rfl rfl rfl

theorem atCapacity_eq_true_iff {cfg : Config} {length : Nat} :
    atCapacity cfg length = true ↔ cfg.queueCapacity = some length := by
  unfold atCapacity
  cases cfg.queueCapacity with
  | none => simp
  | some n => exact beq_iff_eq.trans (eq_comm.trans Option.some_inj.symm)

/-- APPEND keeps the count, the addresses and the bound of Q (rules R27, R113, R114). -/
theorem queueInv_appendEntry (h : QueueInv s) {e : Entry} (ok : storeOk s.cfg e.addr) : QueueInv (appendEntry e s).2 := by
  have f := portOnly_drawAlloc s
  have drawn : QueueInv (drawAlloc s).2 := queueInv_congr h f.que f.cfg
  unfold appendEntry
  simp only
  split
  case isTrue => exact { drawn with }
  case isFalse room =>
    simp only [Bool.or_eq_true, atCapacity_eq_true_iff, not_or] at room
    refine ⟨?_, fun x hx => ?_, fun n hn => ?_⟩
    · show (if e.addr ≠ 0#32 then _ else _) = countStores (_ ++ [e])
      rw [drawn.count, countStores, countStores, List.countP_append, List.countP_singleton]
      by_cases plain : e.addr = 0#32 <;> simp [plain]
    · rcases List.mem_append.1 hx with hx | hx
      · exact drawn.addrs x hx
      · cases List.mem_singleton.1 hx
        exact f.cfg ▸ ok
    · have le := drawn.room n hn
      have ne : n ≠ (drawAlloc s).2.que.entries.length := fun e => room.1 (e ▸ hn)
      rw [State.withQue_que, List.length_append]
      simp only [List.length_singleton]
      omega

theorem queueInv_appendAll {es : List Entry} (h : QueueInv s) (ok : ∀ e ∈ es, storeOk s.cfg e.addr) :
    QueueInv (appendAll es s).2 := by
  induction es generalizing s with
  | nil => exact h
  | cons e es ih =>
    have first := queueInv_appendEntry h (ok e List.mem_cons_self)
    have frame := appendFrame_appendEntry e s
    unfold appendAll
    split
    case h_1 t eq =>
      rw [eq] at first frame
      exact ih first fun x hx => frame.cfg ▸ ok x (List.mem_cons_of_mem _ hx)
    case h_2 t eq => rw [eq] at first; exact first

theorem stepInv_endAppend (h : StepInv s) {appended : Bool × State} (queue : QueueInv appended.2)
    (f : AppendFrame s appended.2) : StepInv (endAppend appended) := by
  have inv : StepInv appended.2 := stepInv_congr h queue f.cfg f.exe f.out f.log f.run
  unfold endAppend
  split <;> [exact stepInv_withSes inv _; exact stepInv_errorExit inv ..]

theorem stepInv_runToEnd (h : StepInv s) : StepInv (runToEnd s) := runToEnd_induct (fun _ h => stepInv_tick h) h

theorem stepInv_startSync (h : StepInv s) {ctx : Ctx} {prog : List Entry} (sync : isSyncCtx ctx = true) (ne : prog ≠ [])
    (stores : ∀ e ∈ prog, storeOk s.cfg e.addr) (recovery : isRecoveryCtx ctx = true → ∀ e ∈ prog, e.addr = 0#32) :
    StepInv (startSync ctx prog s) := by
  obtain ⟨-, obeys, -, log⟩ := stepInv_iff.1 h
  exact stepInv_of_runFrame h (runFrame_startSync ..) (obeys_startSync rfl obeys.out stores recovery)
    (startSync_pointOk sync ne s) log

/-- Where the batched executor starts: at its one ExecQueued, the plan of its slots issued (rule R221). -/
theorem startBatched_cases (s : State) : ∃ u plan, startBatched s = u.waitAt (.batch plan) ∧
    PortOnly ((s.withExe { Executor.reset with phase := .executing }).withRun
      { ctx := some .execBatched, prog := s.que.entries, point := .idle }) u ∧
    plan.map Prod.fst = buildSlots s.cfg s.que.entries :=
  ⟨_, _, rfl, (portOnly_setIR ..).trans (portOnly_issueSlots ..), issueSlots_plan ..⟩

theorem startBatched_pointOk (s : State) : pointOk (startBatched s) := by
  obtain ⟨u, plan, e, f, planned⟩ := startBatched_cases s
  rw [e]
  refine ⟨?_, ?_, ?_⟩
  · rw [State.waitAt_run, f.run]; rfl
  · rw [State.waitAt_exe, f.exe]; rfl
  · rw [State.waitAt_cfg, State.waitAt_run, f.cfg, f.run, planned]; rfl

theorem obeys_startBatched (cfg : s.cfg = P.cfg) (out : P.keeps s.out) (stores : ∀ e ∈ s.que.entries, P.storeOk e.addr) :
    Obeys P (startBatched s) := by
  obtain ⟨u, plan, e, f, -⟩ := startBatched_cases s
  rw [e]
  exact (goesOn_waitAt ((obeys_start cfg out stores fun r => (by cases r)).congr f.cfg f.out f.exe f.run) _).obeys

theorem stepInv_startBatched (h : StepInv s) : StepInv (startBatched s) := by
  obtain ⟨queue, obeys, -, log⟩ := stepInv_iff.1 h
  refine stepInv_of_runFrame h (runFrame_startBatched s) (obeys_startBatched rfl obeys.out queue.addrs)
    (startBatched_pointOk s) ?_
  obtain ⟨u, plan, e, f, -⟩ := startBatched_cases s
  rw [e]
  exact f.log.trans log

/-! ### Starts of commands -/

/-- The four starts of EXEC (rule R170). -/
theorem startExec_cases (s : State) :
    startExec s = errorExit none .resource .queueError s ∨ startExec s = s.withStatus .ok ∨
    (s.que.entries ≠ [] ∧ s.ses.mode = .sync ∧ startExec s = startSync .execSync s.que.entries s) ∨
    (s.ses.mode = .batched ∧ startExec s = startBatched s) := by
  unfold startExec
  split
  case isTrue => exact .inl rfl
  case isFalse =>
    split
    case isTrue => exact .inr (.inl rfl)
    case isFalse ne =>
      cases s.ses.mode with
      | sync => exact .inr (.inr (.inl ⟨ne, rfl, rfl⟩))
      | batched => exact .inr (.inr (.inr ⟨rfl, rfl⟩))

/-- FEED_UNCHECKED on a queue that has entries, at the first of them (rule R260). -/
def feedStart (s : State) : State :=
  ((s.withPhase .executing).withRun { ctx := some .feed, prog := s.que.entries, point := .idle }).waitAt (.poll (.feed 0) 0)

/-- The three starts of FEED_UNCHECKED (rule R260). -/
theorem startFeed_cases (s : State) :
    startFeed s = errorExit none .resource .queueError s ∨ startFeed s = s.withStatus .ok ∨
    (s.que.entries ≠ [] ∧ startFeed s = feedStart s) := by
  unfold startFeed
  split
  case isTrue => exact .inl rfl
  case isFalse =>
    split
    case isTrue => exact .inr (.inl rfl)
    case isFalse ne => exact .inr (.inr ⟨ne, if_pos (List.length_pos_iff.2 ne)⟩)

theorem feedStart_pointOk (ne : s.que.entries ≠ []) : pointOk (feedStart s) := ⟨rfl, rfl, List.length_pos_iff.2 ne⟩

/-- FEED_UNCHECKED has no read deferred, and keeps E but for its phase (rule R260). -/
theorem obeys_feedStart (h : Obeys P s) (resolved : s.exe.pending = none) (stores : ∀ e ∈ s.que.entries, P.storeOk e.addr) :
    Obeys P (feedStart s) :=
  { h with prog := stores, owner := fun _ => resolved, recovery := fun r => by cases r }

/-- The three starts of RECOVER (rule R263). -/
theorem startRecover_cases (first last : RegNum) (s : State) :
    startRecover first last s = errorExit none .illegal .badOperand s ∨ startRecover first last s = s.withStatus .ok ∨
    (recoveryProgram s.ses.isa s.ses.snap first last ≠ [] ∧
      startRecover first last s =
        startSync (.recover first last) (recoveryProgram s.ses.isa s.ses.snap first last) s) := by
  unfold startRecover
  split
  case isTrue => exact .inl rfl
  case isFalse => exact .inr ((startRecovery_cases ..).imp_left And.right)

theorem stepInv_startExec (h : StepInv s) : StepInv (startExec s) := by
  obtain e | e | ⟨ne, -, e⟩ | ⟨-, e⟩ := startExec_cases s <;> rw [e]
  · exact stepInv_errorExit h ..
  · exact stepInv_withSes h _
  · exact stepInv_startSync h rfl ne h.queue.addrs fun r => by cases r
  · exact stepInv_startBatched h

theorem stepInv_startFeed (h : StepInv s) (idle : s.run.point = .idle) : StepInv (startFeed s) := by
  obtain e | e | ⟨ne, e⟩ := startFeed_cases s
  · exact e ▸ stepInv_errorExit h ..
  · exact e ▸ stepInv_withSes h _
  · obtain ⟨queue, obeys, point, log⟩ := stepInv_iff.1 h
    have resolved : s.exe.pending = none := obeys.owner (by rw [run_of_idle point idle]; simp [Run.reset])
    refine stepInv_of_runFrame h (runFrame_startFeed s) ?_ ?_ ?_ <;> rw [e]
    · exact obeys_feedStart obeys resolved queue.addrs
    · exact feedStart_pointOk ne
    · exact log

theorem stepInv_startRecover (h : StepInv s) (first last : RegNum) : StepInv (startRecover first last s) := by
  obtain e | e | ⟨ne, e⟩ := startRecover_cases first last s <;> rw [e]
  · exact stepInv_errorExit h ..
  · exact stepInv_withSes h _
  · exact stepInv_startSync h rfl ne (fun e he => .inl (recoveryProgram_addr he)) fun _ e he => recoveryProgram_addr he

/-- Every command keeps the invariant; with no command running, so does every other instruction. -/
theorem stepInv_exec (h : StepInv s) (idle : s.run.point = .idle) {i : Instr} (next : exec i s = .next t) : StepInv t := by
  cases i with
  | qInit =>
    cases next
    have empty : QueueInv (s.withQue { entries := [], storeCount := 0, error := false }) :=
      ⟨rfl, fun e he => (by cases he), fun n _ => Nat.zero_le n⟩
    exact stepInv_withSes (stepInv_withQue h empty) _
  | qAdd instr addr =>
    cases next
    split
    case isTrue => exact stepInv_errorExit h ..
    case isFalse =>
      split
      case isTrue =>
        have flagged : QueueInv (s.withQue { s.que with error := true }) := { h.queue with }
        exact stepInv_errorExit (stepInv_withQue h flagged) ..
      case isFalse valid =>
        have ok : storeOk s.cfg addr := by
          by_cases plain : addr = 0#32
          · exact .inl plain
          · exact .inr (Bool.eq_true_of_not_eq_false fun e => valid ⟨plain, e⟩)
        exact stepInv_endAppend h (queueInv_appendEntry h.queue ok) (appendFrame_appendEntry ..)
  | qAddLi reg optimize value =>
    cases next
    split
    case isTrue => exact stepInv_errorExit h ..
    case isFalse =>
      refine stepInv_endAppend h (queueInv_appendAll h.queue fun e he => ?_) (appendFrame_appendAll ..)
      obtain ⟨w, -, rfl⟩ := List.mem_map.1 he
      exact .inl rfl
  | exec => cases next; exact stepInv_runToEnd (stepInv_startExec h)
  | feedUnchecked => cases next; exact stepInv_runToEnd (stepInv_startFeed h idle)
  | recover first last => cases next; exact stepInv_runToEnd (stepInv_startRecover h first last)
  | setMode | setIsa => cases next; exact stepInv_withSes (stepInv_withSes h _) _
  | setSnapshot reg value =>
    cases next
    split <;> [exact stepInv_errorExit h ..; exact stepInv_withSes (stepInv_withSes h _) _]
  | reservedCmd9 | reservedCmdAB | reservedCmdCF => cases next; exact stepInv_errorExit h ..
  | ctrlNotPending c => cases next; rw [onNotPending, idle]; exact h
  | ctrlFetch c | ctrlStore c => cases next; rw [onAccess, idle]; exact h
  | nop | lui | ori | j | b => cases next; exact stepInv_withTarget h _

/-- The target's words write its view and nothing else (log entry 12). -/
theorem stepTarget_next {w : Word} (h : stepTarget w s = .next t) : ∃ x, t = s.withTarget x := by
  unfold stepTarget at h
  split at h
  · cases h
  · unfold decodeWord at h
    split at h
    case h_1 i decoded =>
      split_ifs at decoded <;> cases decoded <;> cases h <;> exact ⟨_, rfl⟩
    case h_2 => cases h

/-- Settles O54: the reactions of a running command keep the policy of valid store addresses, and the starts of the commands meet
it. -/
theorem everyStepKeepsTheInvariant : Obligations.EveryStepKeepsTheInvariant := by
  intro s t h next
  rcases step_cases s with ⟨w0, w1, w2, rest, -, idle, e⟩ | ⟨w, rest, -, e⟩ | e <;> rw [e] at next
  · unfold stepCommand at next
    split at next
    · exact stepInv_exec (stepInv_withInbox h rest) idle next
    · cases next; exact stepInv_errorExit (stepInv_withInbox h rest) ..
  · obtain ⟨x, rfl⟩ := stepTarget_next next
    exact stepInv_withTarget (stepInv_withInbox h rest) x
  · cases next; exact stepInv_tick h

/-! ## The stores of EXEC -/

theorem runToEnd_eq_self (idle : s.run.point = .idle) : runToEnd s = s := if_pos idle

/-- A run under a policy keeps it to its end. -/
theorem obeys_runToEnd (h : Obeys P s) (point : pointOk s) : Obeys P (runToEnd s) :=
  (runToEnd_induct (P := fun s => Obeys P s ∧ pointOk s)
    (fun _ h => ⟨(reaction_tick h.1 h.2).obeys, pointOk_tick h.2⟩) ⟨h, point⟩).1

/-- The policy of EXEC's highest store address: stores go to words of OUT below index `i`, and word `i` stays as it is. -/
def belowPolicy (cfg : Config) (i : Nat) (v : Word) : StorePolicy where
  cfg := cfg
  allowed a := outIndex cfg a < i
  keeps m := m.read i = v
  restarts := max cfg.restartLimit 1
  allowed_below {a b} below low high _ := by
    refine below.trans_le' ?_
    rw [outIndex_eq low, outIndex_eq (low.trans high)]
    exact Nat.div_le_div_right (Nat.sub_le_sub_right high _)
  keeps_write v kept below := by rw [Memory.read_write_other _ _ below.ne', kept]
  budget_le := le_rfl

/-- Settles O51: EXEC runs under the policy of its highest store address. -/
theorem execStoresOnlyUpToItsHighestAddress : Obligations.ExecStoresOnlyUpToItsHighestAddress := by
  intro s t i quiet next below
  have stores : ∀ e ∈ s.que.entries, (belowPolicy s.cfg i (s.out.read i)).storeOk e.addr := fun e he =>
    (em (e.addr = 0#32)).imp_right (below e he)
  have ran {u : State} (h : Obeys (belowPolicy s.cfg i (s.out.read i)) u) (point : pointOk u) :
      (runToEnd u).out.read i = s.out.read i := (obeys_runToEnd h point).out
  cases next
  obtain e | e | ⟨ne, -, e⟩ | ⟨-, e⟩ := startExec_cases s <;> rw [e]
  · rfl
  · rw [runToEnd_eq_self (by exact congrArg Run.point quiet.run)]; rfl
  · exact ran (obeys_startSync rfl rfl stores fun r => by cases r) (startSync_pointOk rfl ne s)
  · exact ran (obeys_startBatched rfl rfl stores) (startBatched_pointOk s)

end Sys2Proof.Proofs
end

section
/-! SUPPORT. The ends of runs of the recovery program, a queue in error, and the footprint and the result of every command. -/

namespace Sys2Proof.Proofs

open Sys2Proof.Machine Sys2Proof.Safety

variable {P : StorePolicy} {s t u : State}

/-! ## Runs of the recovery program -/

theorem inRange_iff (first last reg : RegNum) : inRange first last reg = true ↔ first ≤ reg ∧ reg ≤ last :=
  Bool.and_eq_true_iff.trans (and_congr decide_eq_true_iff decide_eq_true_iff)

/-- Register numbers on both sides of SCRATCH_SET (P21, rule R263). -/
theorem coversScratch_iff (first last : RegNum) : coversScratch first last = true ↔ first ≤ 8 ∧ 15 ≤ last := by
  simp only [coversScratch, scratchSet, scratchNumber, List.all_cons, List.all_nil, Bool.and_eq_true, inRange_iff, and_true]
  bv_omega

theorem raise_exitRecovery {k₀ : Kind} (ctx : s.run.ctx = some (.exitRecovery k₀)) (k : Kind) (r : Reason) :
    raise k r s =
      { s with
        ses := { s.ses with scratchSuspect := true, status := k₀ }, exe := { s.exe with phase := .idle }, run := .reset } := by
  unfold raise; rw [ctx]; rfl

theorem succeed_exitRecovery {k₀ : Kind} (ctx : s.run.ctx = some (.exitRecovery k₀)) :
    succeed s =
      { s with
        ses := { s.ses with scratchSuspect := false, status := k₀ }, exe := { s.exe with phase := .idle }, run := .reset } := by
  unfold succeed; rw [ctx]; rfl

theorem raise_recover {first last : RegNum} (ctx : s.run.ctx = some (.recover first last)) (k : Kind) (r : Reason) :
    raise k r s = failedWith k r { s with ses := { s.ses with scratchSuspect := true } } := by
  unfold raise; rw [ctx]; rfl

theorem succeed_recover {first last : RegNum} (ctx : s.run.ctx = some (.recover first last)) :
    succeed s =
      { s with
        ses :=
          { s.ses with
            scratchSuspect := if first ≤ 8 ∧ 15 ≤ last then false else s.ses.scratchSuspect
            status := .ok }
        exe := { s.exe with phase := .idle }
        run := .reset } := by
  unfold succeed
  rw [ctx]
  simp only [noteRecovery, coversScratch_iff, if_true]
  split <;> rfl

/-- Settles O49: each end of each run of the recovery program, by its context. -/
theorem recoveryRunsEndWithoutNesting : Obligations.RecoveryRunsEndWithoutNesting := fun _ =>
  ⟨fun _ k r ctx => ⟨raise_exitRecovery ctx k r, succeed_exitRecovery ctx⟩,
    fun _ _ k r ctx => ⟨raise_recover ctx k r, succeed_recover ctx⟩⟩

/-! ## A queue in error -/

/-- Between commands an error exit writes S.status and S.diag only (rules R296, R298). -/
theorem errorExit_none_quiet (quiet : Quiet s) (k : Kind) (r : Reason) :
    errorExit none k r s = { s with ses := { s.ses with status := k, diag := diagnose r s } } := by
  have exe : { s.exe with phase := .idle, pending := none } = s.exe := by rw [← quiet.phase, ← quiet.pending]
  rw [errorExit_none, exe, ← quiet.log, ← quiet.run]

theorem runToEnd_errorExit_none (k : Kind) (r : Reason) (s : State) :
    runToEnd (errorExit none k r s) = errorExit none k r s := runToEnd_eq_self rfl

/-- Settles O17: the four commands take the error exit before anything else. -/
theorem anErroredQueueRefusesWork : Obligations.AnErroredQueueRefusesWork := by
  intro s i quiet error work
  rw [← errorExit_none_quiet quiet]
  obtain ⟨w, a, rfl⟩ | ⟨r, o, v, rfl⟩ | rfl | rfl := work
  · exact congrArg _ (if_pos error)
  · exact congrArg _ (if_pos error)
  · have start : startExec s = errorExit none .resource .queueError s := if_pos error
    rw [← runToEnd_errorExit_none, ← start]
    rfl
  · have start : startFeed s = errorExit none .resource .queueError s := if_pos error
    rw [← runToEnd_errorExit_none, ← start]
    rfl

end Sys2Proof.Proofs
end

section
/-! SUPPORT. The footprint and the result of every command (rules R26, R267, R291, R292): where a command's run stands, from its
start to its end. -/

namespace Sys2Proof.Proofs

open Sys2Proof.Machine Sys2Proof.Safety

variable {P : StorePolicy} {s t u : State} {c : Option Ctx} {k : Kind}

/-! ## The outcome of a run -/

/-- No reason is that of a success (rule R292). -/
theorem ne_ok_of_mem_kinds {r : Reason} (h : k ∈ r.kinds) : k ≠ .ok := by
  rintro rfl
  revert h
  cases r <;> decide

/-- The result of a command: OK with S.diag as it was, or a kind that rule R292 gives the reason in S.diag (rules R26, R291). -/
abbrev Reports (k : Kind) (s t : State) : Prop :=
  (k = .ok ∧ t.ses.diag = s.ses.diag) ∨ ∃ r, t.ses.diag.reason = some r ∧ k ∈ r.kinds

/-- What the run of a command in the context `c` leaves as it was while it has not ended (rule R267). -/
structure Unfinished (c : Option Ctx) (s t : State) : Prop where
  diag : t.ses.diag = s.ses.diag
  mode : t.ses.mode = s.ses.mode
  suspect : c = some .feed → t.ses.scratchSuspect = s.ses.scratchSuspect
  out : c ≠ some .execSync → t.out = s.out

/-- What the run of a command in the context `c`, from `s` to `t`, leaves and reports with the kind `k` (rules R26, R231, R267,
R292). -/
structure Outcome (c : Option Ctx) (k : Kind) (s t : State) : Prop where
  report : Reports k s t
  mode : t.ses.mode = s.ses.mode ∨ (c = some .execBatched ∧ t.ses.mode = .sync ∧ k ≠ .ok)
  suspect : c = some .feed → t.ses.scratchSuspect = s.ses.scratchSuspect
  out : c ≠ some .execSync → (c = some .execBatched ∧ k = .ok) ∨ t.out = s.out

theorem Outcome.congr_left (h : Outcome c k s t) (ses : s.ses = u.ses) (out : s.out = u.out) : Outcome c k u t :=
  ⟨by rw [Reports, ← ses]; exact h.report, ses ▸ h.mode, ses ▸ h.suspect, out ▸ h.out⟩

/-- A recovery changes no more than the suspect bit, and runs in the error exit of no FEED_UNCHECKED (rule R302). -/
theorem Outcome.recovered (h : Outcome c k s t) (exec : c ≠ some .feed) (diag : u.ses.diag = t.ses.diag)
    (mode : u.ses.mode = t.ses.mode) (out : u.out = t.out) : Outcome c k s u :=
  ⟨by rw [Reports, diag]; exact h.report, mode ▸ h.mode, fun c => absurd c exec, out ▸ h.out⟩

theorem GoesOn.unfinished (g : GoesOn P s t) : Unfinished s.run.ctx s t :=
  ⟨by rw [g.ses], by rw [g.ses], fun _ => by rw [g.ses], g.out⟩

theorem Unfinished.noteRecovery (h : Unfinished c s t) (recover : c ≠ some .feed) (ok : Bool) (first last : RegNum) :
    Unfinished c s (noteRecovery ok first last t) := by
  unfold Machine.noteRecovery
  split
  · split <;> [exact { h with suspect := fun c => absurd c recover }; exact h]
  · exact { h with suspect := fun c => absurd c recover }

/-- A run that ends OK. -/
theorem Unfinished.outcome_ok (h : Unfinished c s t) : Outcome c .ok s (endCommand .ok t) :=
  ⟨.inl ⟨rfl, h.diag⟩, .inl h.mode, h.suspect, fun c => .inr (h.out c)⟩

/-- A batch that is committed (rule R229). -/
theorem Unfinished.outcome_commit (h : Unfinished c s t) (batched : c = some .execBatched) (m : Memory) :
    Outcome c .ok s (endCommand .ok ((t.withOut m).withLog [])) :=
  ⟨.inl ⟨rfl, h.diag⟩, .inl h.mode, h.suspect, fun _ => .inl ⟨batched, rfl⟩⟩

/-- A failure that is recorded is the outcome of the run, whether or not a recovery follows (rules R231, R298). -/
theorem Unfinished.outcome_recordFailure (h : Unfinished c s t) {r : Reason} (kind : k ∈ r.kinds) {b : Bool}
    (batched : b = true → c = some .execBatched) : Outcome c k s (recordFailure b r t) := by
  cases b with
  | false => exact ⟨.inr ⟨r, rfl, kind⟩, .inl h.mode, h.suspect, fun c => .inr (h.out c)⟩
  | true =>
    exact ⟨.inr ⟨r, rfl, kind⟩, .inr ⟨batched rfl, rfl, ne_ok_of_mem_kinds kind⟩, h.suspect, fun c => .inr (h.out c)⟩

/-! ## Where a command stands -/

/-- Where the command whose run began at `s` stands: in that run, in the recovery of its error exit, or at its end. -/
inductive Stage (P : StorePolicy) (s : State) (t : State) : Prop where
  | runs (h : GoesOn P s t)
  | recovers {k : Kind} (ctx : t.run.ctx = some (.exitRecovery k)) (obeys : Obeys P t) (exec : s.run.ctx ≠ some .feed)
    (outcome : Outcome s.run.ctx k s t)
  | ended (run : t.run = .reset) (outcome : Outcome s.run.ctx t.ses.status s t)

/-- The error exit ends a command or starts its recovery (rules R298, R300). -/
theorem Unfinished.stage_errorExit (h : Unfinished s.run.ctx s t) (obeys : Obeys P t) {r : Reason} (kind : k ∈ r.kinds) :
    Stage P s (errorExit s.run.ctx k r t) := by
  have kept := obeys_errorExit obeys s.run.ctx k r
  obtain ⟨b, batched, e | ⟨exec, e⟩⟩ := errorExit_cases s.run.ctx k r t <;> rw [e] at kept ⊢
  all_goals obtain ⟨report, mode, suspect, out⟩ := h.outcome_recordFailure kind batched
  · exact .ended rfl ⟨report, mode, suspect, out⟩
  · exact .recovers rfl kept (by rcases exec with e | e <;> rw [e] <;> simp) ⟨report, mode, suspect, out⟩

/-- A failure in a command's own run (rules R263, R290). -/
theorem GoesOn.stage_raise (g : GoesOn P s t) (own : ∀ k, s.run.ctx ≠ some (.exitRecovery k)) {r : Reason}
    (kind : k ∈ r.kinds) : Stage P s (raise k r t) := by
  unfold raise
  split
  case h_1 first last hc =>
    rw [g.ctx] at hc ⊢
    exact (g.unfinished.noteRecovery (by rw [hc]; simp) ..).stage_errorExit (obeys_noteRecovery g.obeys ..) kind
  case h_2 k₀ hc => exact absurd (g.ctx.symm.trans hc) (own k₀)
  all_goals
    rw [g.ctx]
    exact g.unfinished.stage_errorExit g.obeys kind

/-- A success of a command's own run (rules R187, R230, R260, R263). -/
theorem GoesOn.stage_succeed (g : GoesOn P s t) (own : ∀ k, s.run.ctx ≠ some (.exitRecovery k)) :
    Stage P s (succeed t) := by
  unfold succeed
  split
  case h_1 first last hc =>
    exact .ended rfl (g.unfinished.noteRecovery (by rw [← g.ctx, hc]; simp) ..).outcome_ok
  case h_2 k₀ hc => exact absurd (g.ctx.symm.trans hc) (own k₀)
  all_goals exact .ended rfl g.unfinished.outcome_ok

/-- A reaction in a command's own run. -/
theorem Reaction.stage_own (react : Reaction P s t) (own : ∀ k, s.run.ctx ≠ some (.exitRecovery k)) : Stage P s t := by
  cases react with
  | goes g => exact .runs g
  | fails g kind => exact g.stage_raise own kind
  | passes g => exact g.stage_succeed own
  | @commits v m g batched =>
    have ctx : ((v.withOut m).withLog []).run.ctx = some .execBatched := g.ctx.trans batched
    rw [succeed, ctx]
    exact .ended rfl (g.unfinished.outcome_commit batched m)

/-- A reaction in the recovery of an error exit keeps the outcome of the command (rules R301, R302). -/
theorem Reaction.stage_recovery (react : Reaction P t u) (ctx : t.run.ctx = some (.exitRecovery k))
    (exec : s.run.ctx ≠ some .feed) (outcome : Outcome s.run.ctx k s t) : Stage P s u := by
  have kept {v : State} (g : GoesOn P t v) : Outcome s.run.ctx k s v :=
    outcome.recovered exec g.unfinished.diag g.unfinished.mode (g.out (by rw [ctx]; simp))
  cases react with
  | goes g => exact .recovers (g.ctx.trans ctx) g.obeys exec (kept g)
  | fails g =>
    rw [raise_exitRecovery (g.ctx.trans ctx)]
    exact .ended rfl ((kept g).recovered exec rfl rfl rfl)
  | passes g =>
    rw [succeed_exitRecovery (g.ctx.trans ctx)]
    exact .ended rfl ((kept g).recovered exec rfl rfl rfl)
  | commits g batched => rw [ctx] at batched; cases batched

/-- A micro-step takes the command from stage to stage. -/
theorem Stage.tick (h : Stage P s t) (own : ∀ k, s.run.ctx ≠ some (.exitRecovery k)) (point : pointOk t) :
    Stage P s (tick t) := by
  cases h with
  | runs g => exact (Reaction.after g (reaction_tick g.obeys point)).stage_own own
  | recovers ctx obeys exec outcome => exact (reaction_tick obeys point).stage_recovery ctx exec outcome
  | ended run outcome =>
    rw [tick_idle (by rw [run]; rfl)]
    exact .ended run outcome

/-- A run to its end has its outcome. -/
theorem outcome_runToEnd (h : Obeys P s) (point : pointOk s) {c : Ctx} (ctx : s.run.ctx = some c)
    (own : ∀ k, c ≠ .exitRecovery k) (idle : (runToEnd s).run.point = .idle) :
    Outcome (some c) (runToEnd s).ses.status s (runToEnd s) := by
  have own : ∀ k, s.run.ctx ≠ some (.exitRecovery k) := fun k e => own k (Option.some.inj (ctx.symm.trans e))
  obtain ⟨stage, fits⟩ := runToEnd_induct (P := fun t => Stage P s t ∧ pointOk t)
    (fun _ h => ⟨h.1.tick own h.2, pointOk_tick h.2⟩) ⟨.runs (.refl h), point⟩
  have none : (runToEnd s).run.ctx = none := congrArg Run.ctx (run_of_idle fits idle)
  cases stage with
  | runs g => rw [g.ctx, ctx] at none; cases none
  | recovers ctx => rw [ctx] at none; cases none
  | ended run outcome => exact ctx ▸ outcome

/-! ## The commands -/

/-- The policy that forbids nothing. -/
def anyPolicy (cfg : Config) (restarts : Nat) : StorePolicy where
  cfg := cfg
  allowed _ := True
  keeps _ := True
  restarts := max (max cfg.restartLimit 1) restarts
  allowed_below _ _ _ _ := trivial
  keeps_write _ _ _ := trivial
  budget_le := le_max_left ..

/-- The commands that build the queue (rules R110 to R115). -/
abbrev BuildsQueue (i : Instr) : Prop := i = .qInit ∨ (∃ w a, i = .qAdd w a) ∨ ∃ r o v, i = .qAddLi r o v

/-- The context of a command's own run in a mode; none where it runs nothing (rules R170, R260, R263). -/
def runCtx (mode : Mode) : Instr → Option Ctx
  | .exec => some (match mode with | .sync => .execSync | .batched => .execBatched)
  | .feedUnchecked => some .feed
  | .recover first last => some (.recover first last)
  | _ => none

/-- The footprint of a command and its result, as rules R26, R267 and R292 give them. -/
structure Footprint (i : Instr) (s t : State) : Prop where
  cfg : t.cfg = s.cfg
  inbox : t.inbox = s.inbox
  target : t.target = s.target
  que : BuildsQueue i ∨ t.que = s.que
  mode : (∃ m, i = .setMode m) ∨ t.ses.mode = s.ses.mode ∨
    (i = .exec ∧ s.ses.mode = .batched ∧ t.ses.mode = .sync ∧ t.ses.status ≠ .ok)
  snap : (∃ r v, i = .setSnapshot r v) ∨ t.ses.snap = s.ses.snap
  suspect : (i = .exec ∨ ∃ a b, i = .recover a b) ∨ t.ses.scratchSuspect = s.ses.scratchSuspect
  isa : (∃ x e, i = .setIsa x e) ∨ (t.ses.isa = s.ses.isa ∧ t.ses.endian = s.ses.endian)
  out : (i = .exec ∧ (s.ses.mode = .sync ∨ t.ses.status = .ok)) ∨ t.out = s.out
  port : (i = .exec ∨ i = .feedUnchecked ∨ ∃ a b, i = .recover a b) ∨ t.port = s.port
  report : Reports t.ses.status s t

variable {i : Instr}

/-- A command that ends at once, after what it may have appended. -/
theorem footprint_atOnce (f : AppendFrame s t) (que : BuildsQueue i ∨ t.que = s.que) {d : Diag} (x : Executor)
    (l : List Record) (run : Run) (report : (k = .ok ∧ d = s.ses.diag) ∨ ∃ r, d.reason = some r ∧ k ∈ r.kinds) :
    Footprint i s { t with ses := { t.ses with status := k, diag := d }, exe := x, log := l, run := run } where
  cfg := f.cfg
  inbox := f.inbox
  target := f.target
  que := que
  mode := .inr (.inl (by rw [f.ses]))
  snap := .inr (by rw [f.ses])
  suspect := .inr (by rw [f.ses])
  isa := .inr (by rw [f.ses]; exact ⟨rfl, rfl⟩)
  out := .inr f.out
  port := .inr f.port
  report := report

theorem footprint_ok (f : AppendFrame s t) (que : BuildsQueue i ∨ t.que = s.que) : Footprint i s (t.withStatus .ok) :=
  footprint_atOnce f que t.exe t.log t.run (.inl ⟨rfl, by rw [f.ses]⟩)

/-- A command that takes the error exit at once (rule R298). -/
theorem footprint_errorExit (f : AppendFrame s t) (que : BuildsQueue i ∨ t.que = s.que) {r : Reason} (kind : k ∈ r.kinds) :
    Footprint i s (errorExit none k r t) :=
  footprint_atOnce f que _ _ _ (.inr ⟨r, rfl, kind⟩)

theorem AppendFrame.refl (s : State) : AppendFrame s s := ⟨rfl, rfl, rfl, rfl, rfl, rfl, rfl, rfl, rfl⟩

/-- A command that has nothing to run. -/
theorem footprint_ok_quiet (quiet : Quiet s) : Footprint i s (runToEnd (s.withStatus .ok)) := by
  have idle : (s.withStatus .ok).run.point = .idle := congrArg Run.point quiet.run
  rw [runToEnd_eq_self idle]
  exact footprint_ok (.refl s) (.inr rfl)

/-- The commands that run, by mode and context. -/
theorem runCtx_cases {mode : Mode} {c : Ctx} (h : runCtx mode i = some c) :
    (i = .exec ∧ mode = .sync ∧ c = .execSync) ∨ (i = .exec ∧ mode = .batched ∧ c = .execBatched) ∨
    (i = .feedUnchecked ∧ c = .feed) ∨ ∃ a b, i = .recover a b ∧ c = .recover a b := by
  unfold runCtx at h
  split at h
  · cases mode <;> cases h
    · exact .inl ⟨rfl, rfl, rfl⟩
    · exact .inr (.inl ⟨rfl, rfl, rfl⟩)
  · cases h; exact .inr (.inr (.inl ⟨rfl, rfl⟩))
  · cases h; exact .inr (.inr (.inr ⟨_, _, rfl, rfl⟩))
  · cases h

/-- A command that runs. -/
theorem footprint_run (f : RunFrame s t) {c : Ctx} (ctx : runCtx s.ses.mode i = some c)
    (o : Outcome (some c) t.ses.status s t) : Footprint i s t := by
  obtain ⟨report, mode, suspect, out⟩ := o
  have footprint := Footprint.mk (i := i) f.cfg f.inbox f.target (.inr f.que) (snap := .inr f.snap)
    (isa := .inr ⟨f.isa, f.endian⟩) (report := report)
  obtain ⟨rfl, hm, rfl⟩ | ⟨rfl, hm, rfl⟩ | ⟨rfl, rfl⟩ | ⟨a, b, rfl, rfl⟩ := runCtx_cases ctx
  · exact footprint (.inr (.inl (by simpa using mode))) (.inl (.inl rfl)) (.inl ⟨rfl, .inl hm⟩) (.inl (.inl rfl))
  · refine footprint (.inr (mode.imp_right fun ⟨_, m⟩ => ⟨rfl, hm, m⟩)) (.inl (.inl rfl)) ?_ (.inl (.inl rfl))
    exact (out (by simp)).imp_left fun ⟨_, ok⟩ => ⟨rfl, .inr ok⟩
  · exact footprint (.inr (.inl (by simpa using mode))) (.inr (suspect rfl)) (.inr (by simpa using out))
      (.inl (.inr (.inl rfl)))
  · exact footprint (.inr (.inl (by simpa using mode))) (.inl (.inr ⟨a, b, rfl⟩)) (.inr (by simpa using out))
      (.inl (.inr (.inr ⟨a, b, rfl⟩)))

theorem obeys_any (quiet : Quiet s) : Obeys (anyPolicy s.cfg s.exe.restartCount) s where
  cfg := rfl
  out := trivial
  prog _ _ := .inr trivial
  maxStore := .inr trivial
  pending _ _ := trivial
  owner _ := quiet.pending
  recovery r := by rw [quiet.run] at r; cases r
  budget := le_max_right ..

/-- A command whose run is in the synchronous executor. -/
theorem footprint_startSync {c : Ctx} {prog : List Entry} (ctx : runCtx s.ses.mode i = some c) (sync : isSyncCtx c = true)
    (own : ∀ k, c ≠ .exitRecovery k) (ne : prog ≠ []) (recovery : isRecoveryCtx c = true → ∀ e ∈ prog, e.addr = 0#32) :
    Footprint i s (runToEnd (startSync c prog s)) := by
  have obeys : Obeys (anyPolicy s.cfg 0) (startSync c prog s) :=
    obeys_startSync rfl trivial (fun _ _ => .inr trivial) recovery
  have outcome := outcome_runToEnd obeys (startSync_pointOk sync ne s) rfl own (startSync_ends sync ne s)
  exact footprint_run ((runFrame_startSync ..).trans (runFrame_runToEnd _)) ctx (outcome.congr_left rfl rfl)

/-- EXEC of a queue in batched mode. -/
theorem footprint_startBatched (ctx : runCtx s.ses.mode i = some .execBatched) :
    Footprint i s (runToEnd (startBatched s)) := by
  have obeys : Obeys (anyPolicy s.cfg 0) (startBatched s) := obeys_startBatched rfl trivial fun _ _ => .inr trivial
  have point := startBatched_pointOk s
  have ends := startBatched_ends s
  have frame := (runFrame_startBatched s).trans (runFrame_runToEnd _)
  obtain ⟨u, plan, e, f, -⟩ := startBatched_cases s
  rw [e] at obeys point ends frame ⊢
  exact footprint_run frame ctx ((outcome_runToEnd obeys point point.1 (by simp) ends).congr_left f.ses f.out)

theorem footprint_exec (quiet : Quiet s) : Footprint .exec s (runToEnd (startExec s)) := by
  obtain e | e | ⟨ne, mode, e⟩ | ⟨mode, e⟩ := startExec_cases s <;> rw [e]
  · exact footprint_errorExit (.refl s) (.inr rfl) (by decide)
  · exact footprint_ok_quiet quiet
  · exact footprint_startSync (by rw [mode]; rfl) rfl (by simp) ne fun r => by cases r
  · exact footprint_startBatched (by rw [mode]; rfl)

theorem footprint_feed (quiet : Quiet s) : Footprint .feedUnchecked s (runToEnd (startFeed s)) := by
  have ends := startFeed_ends (s := s) (by rw [quiet.run]; rfl)
  have frame := (runFrame_startFeed s).trans (runFrame_runToEnd _)
  obtain e | e | ⟨ne, e⟩ := startFeed_cases s <;> rw [e] at ends frame ⊢
  · exact footprint_errorExit (.refl s) (.inr rfl) (by decide)
  · exact footprint_ok_quiet quiet
  · have obeys := obeys_feedStart (obeys_any quiet) quiet.pending fun _ _ => .inr trivial
    have outcome := outcome_runToEnd obeys (feedStart_pointOk ne) rfl (by simp) ends
    exact footprint_run frame rfl (outcome.congr_left rfl rfl)

theorem footprint_recover (quiet : Quiet s) (first last : RegNum) :
    Footprint (.recover first last) s (runToEnd (startRecover first last s)) := by
  obtain e | e | ⟨ne, e⟩ := startRecover_cases first last s <;> rw [e]
  · exact footprint_errorExit (.refl s) (.inr rfl) (by decide)
  · exact footprint_ok_quiet quiet
  · exact footprint_startSync rfl rfl (by simp) ne fun _ e he => recoveryProgram_addr he

theorem footprint_append (builds : BuildsQueue i) {appended : Bool × State} (f : AppendFrame s appended.2) :
    Footprint i s (endAppend appended) := by
  unfold endAppend
  split <;> [exact footprint_ok f (.inl builds); exact footprint_errorExit f (.inl builds) (by decide)]

/-- Every command keeps its footprint (rules R26, R267, R292). -/
theorem footprint_command (command : i.surface = .command) (quiet : Quiet s) (next : exec i s = .next t) :
    Footprint i s t := by
  have emptied : AppendFrame s (s.withQue { entries := [], storeCount := 0, error := false }) :=
    ⟨rfl, rfl, rfl, rfl, rfl, rfl, rfl, rfl, rfl⟩
  have flagged : AppendFrame s (s.withQue { s.que with error := true }) := ⟨rfl, rfl, rfl, rfl, rfl, rfl, rfl, rfl, rfl⟩
  cases i with
  | qInit => cases next; exact footprint_ok emptied (.inl (.inl rfl))
  | qAdd instr addr =>
    have builds : BuildsQueue (.qAdd instr addr) := .inr (.inl ⟨_, _, rfl⟩)
    cases next
    split
    case isTrue => exact footprint_errorExit (.refl s) (.inl builds) (by decide)
    case isFalse =>
      split
      case isTrue => exact footprint_errorExit flagged (.inl builds) (by decide)
      case isFalse => exact footprint_append builds (appendFrame_appendEntry ..)
  | qAddLi reg optimize value =>
    have builds : BuildsQueue (.qAddLi reg optimize value) := .inr (.inr ⟨_, _, _, rfl⟩)
    cases next
    split
    case isTrue => exact footprint_errorExit (.refl s) (.inl builds) (by decide)
    case isFalse => exact footprint_append builds (appendFrame_appendAll ..)
  | exec => cases next; exact footprint_exec quiet
  | feedUnchecked => cases next; exact footprint_feed quiet
  | recover first last => cases next; exact footprint_recover quiet first last
  | setMode mode => cases next; exact { footprint_ok (.refl s) (.inr rfl) with mode := .inl ⟨_, rfl⟩ }
  | setIsa isa endian => cases next; exact { footprint_ok (.refl s) (.inr rfl) with isa := .inl ⟨_, _, rfl⟩ }
  | setSnapshot reg value =>
    cases next
    split
    · exact footprint_errorExit (.refl s) (.inr rfl) (by decide)
    · exact { footprint_ok (.refl s) (.inr rfl) with snap := .inl ⟨_, _, rfl⟩ }
  | reservedCmd9 | reservedCmdAB | reservedCmdCF =>
    cases next; exact footprint_errorExit (.refl s) (.inr rfl) (by decide)
  | ctrlNotPending | ctrlFetch | ctrlStore | nop | lui | ori | j | b => cases command

/-- Settles O52: a command ends at once, or its run goes from stage to stage to its outcome. -/
theorem commandsKeepTheirFootprint : Obligations.CommandsKeepTheirFootprint := by
  intro s t i command quiet next
  obtain ⟨cfg, inbox, target, que, mode, snap, suspect, isa, out, port, report⟩ := footprint_command command quiet next
  refine ⟨cfg, inbox, target, que, mode, snap, suspect, isa, out, port, report.imp_right ?_⟩
  exact fun ⟨r, reason, kind⟩ => ⟨ne_ok_of_mem_kinds kind, r, reason, kind⟩

end Sys2Proof.Proofs
end

section
/-! SUPPORT. The encodings (rules R80 to R93): the fields of a command record, the words the block emits, the control words, the
96-bit record and the finish word, each part read back from where it is put. -/

namespace Sys2Proof.Proofs

open Sys2Proof.Machine Sys2Proof.Safety

/-! ## The fields of a command record (rule R81) -/

section
variable (op : BitVec 4) (reg reg2 : RegNum) (b14 b15 : Bool)

@[simp] theorem opField_commandWord : opField (commandWord op reg reg2 b14 b15) = op :=
  BitVec.extractLsb'_append_eq_right

@[simp] theorem regField_commandWord : regField (commandWord op reg reg2 b14 b15) = reg :=
  (BitVec.extractLsb'_append_eq_of_le (by decide)).trans BitVec.extractLsb'_append_eq_right

@[simp] theorem reg2Field_commandWord : reg2Field (commandWord op reg reg2 b14 b15) = reg2 := by
  simp only [reg2Field, commandWord, BitVec.extractLsb'_append_eq_ite]
  simp

theorem b14_commandWord : (commandWord op reg reg2 b14 b15).getLsbD 14 = b14 := by
  simp only [commandWord, BitVec.getLsbD_append]
  simp

end

/-- A word whose upper half is 0 is the command word of its fields. -/
theorem commandWord_eq_of_fields {w : Word} {op : BitVec 4} {reg reg2 : RegNum} {b14 b15 : Bool}
    (upper : w.extractLsb' 16 16 = 0#16) (hop : opField w = op) (hreg : regField w = reg) (hreg2 : reg2Field w = reg2)
    (h14 : w.getLsbD 14 = b14) (h15 : w.getLsbD 15 = b15) : commandWord op reg reg2 b14 b15 = w := by
  have bit (i : Nat) : BitVec.ofBool (w.getLsbD i) = w.extractLsb' i 1 := by
    ext k hk
    simp [show k = 0 by omega]
  subst hop hreg hreg2 h14 h15
  unfold commandWord opField regField reg2Field
  rw [← upper, bit, bit]
  repeat rw [BitVec.extractLsb'_append_extractLsb'_eq_extractLsb' (by rfl)]
  exact BitVec.extractLsb'_eq_self

/-- A field that a mask covers is 0 in a word with no 1 under the mask. -/
theorem field_eq_zero {w m : Word} (clear : w &&& m = 0#32) (start len : Nat)
    (covers : m.extractLsb' start len = BitVec.allOnes len) : w.extractLsb' start len = 0#len := by
  rw [← BitVec.and_allOnes (x := w.extractLsb' start len), ← covers, ← BitVec.extractLsb'_and, clear, BitVec.extractLsb'_zero]

theorem bit_eq_false {w m : Word} (clear : w &&& m = 0#32) (k : Nat) (covers : m.getLsbD k = true) : w.getLsbD k = false := by
  rw [← Bool.and_true (w.getLsbD k), ← covers, ← BitVec.getLsbD_and, clear, BitVec.getLsbD_zero]

/-- A command without operands in its first word. -/
theorem commandWord_plain {w : Word} {op : BitVec 4} (hop : opField w = op) (clear : w &&& 0xFFFFFFF0#32 = 0#32) :
    commandWord op 0 0 false false = w :=
  commandWord_eq_of_fields (field_eq_zero clear 16 16 rfl) hop (field_eq_zero clear 4 5 rfl) (field_eq_zero clear 9 5 rfl)
    (bit_eq_false clear 14 rfl) (bit_eq_false clear 15 rfl)

theorem opcode_defined_cases : ∀ op : BitVec 4, op.toNat < 9 →
    op = 0#4 ∨ op = 1#4 ∨ op = 2#4 ∨ op = 3#4 ∨ op = 4#4 ∨ op = 5#4 ∨ op = 6#4 ∨ op = 7#4 ∨ op = 8#4 := by decide

/-- The three rows of reserved opcodes (rule R83). -/
theorem opcode_reserved_cases : ∀ op : BitVec 4, 9 ≤ op.toNat →
    op = 9#4 ∨ (∃ low : BitVec 1, op = 0b101#3 ++ low) ∨ ∃ low : BitVec 2, op = 0b11#2 ++ low := by decide

/-! ## Command records (rules R80 to R83) -/

section
variable {w0 w1 w2 : Word}

theorem decodeCommand_legal (legal : w0 &&& unusedMask (opField w0) = 0#32) :
    decodeCommand w0 w1 w2 = .ok (commandOf w0 w1 w2) := if_pos legal

theorem decodeCommand_commandWord {op : BitVec 4} {reg reg2 : RegNum} {b14 b15 : Bool}
    (legal : commandWord op reg reg2 b14 b15 &&& unusedMask op = 0#32) :
    decodeCommand (commandWord op reg reg2 b14 b15) w1 w2 = .ok (commandOf (commandWord op reg reg2 b14 b15) w1 w2) :=
  decodeCommand_legal (by rwa [opField_commandWord])

theorem decodeCommand_reserved9 (field : opField w0 = 9#4) :
    decodeCommand w0 w1 w2 = .ok (.reservedCmd9 (w0.extractLsb' 4 28)) := by
  rw [decodeCommand_legal (by rw [field]; exact BitVec.and_zero), commandOf, field]
  rfl

theorem decodeCommand_reservedAB {low : BitVec 1} (field : opField w0 = 0b101#3 ++ low) :
    decodeCommand w0 w1 w2 = .ok (.reservedCmdAB (w0.extractLsb' 4 28) low) := by
  have low_eq : w0.extractLsb' 0 1 = low := by
    rw [← BitVec.extractLsb'_append_eq_right (a := 0b101#3) (b := low), ← field]
    exact (BitVec.extractLsb'_extractLsb'_of_le (by decide)).symm
  obtain rfl | rfl : low = 0 ∨ low = 1 := by clear field low_eq; revert low; decide
  all_goals
    rw [decodeCommand_legal (by rw [field]; exact BitVec.and_zero), commandOf, field, low_eq]
    rfl

theorem decodeCommand_reservedCF {low : BitVec 2} (field : opField w0 = 0b11#2 ++ low) :
    decodeCommand w0 w1 w2 = .ok (.reservedCmdCF (w0.extractLsb' 4 28) low) := by
  have low_eq : w0.extractLsb' 0 2 = low := by
    rw [← BitVec.extractLsb'_append_eq_right (a := 0b11#2) (b := low), ← field]
    exact (BitVec.extractLsb'_extractLsb'_of_le (by decide)).symm
  obtain rfl | rfl | rfl | rfl : low = 0 ∨ low = 1 ∨ low = 2 ∨ low = 3 := by clear field low_eq; revert low; decide
  all_goals
    rw [decodeCommand_legal (by rw [field]; exact BitVec.and_zero), commandOf, field, low_eq]
    rfl

end

/-- The opcode of a reserved record, put together (rule R83). -/
theorem reservedAB_word (rest : BitVec 28) (low : BitVec 1) :
    (rest ++ 0b101#3 ++ low : Word) = rest ++ (0b101#3 ++ low : BitVec 4) := BitVec.append_assoc

theorem reservedCF_word (rest : BitVec 28) (low : BitVec 2) :
    (rest ++ 0b11#2 ++ low : Word) = rest ++ (0b11#2 ++ low : BitVec 4) := BitVec.append_assoc

theorem qAddLi_legal : ∀ (reg : RegNum) (b14 : Bool), commandWord 2 reg 0 b14 false &&& unusedMask 2 = 0#32 := by decide
theorem setSnapshot_legal : ∀ reg : RegNum, commandWord 6 reg 0 false false &&& unusedMask 6 = 0#32 := by decide
theorem recover_legal : ∀ first last : RegNum, commandWord 7 first last false false &&& unusedMask 7 = 0#32 := by decide

theorem decode_encode_command {i : Instr} (command : i.surface = .command) : decode .command (encode i) = .ok i := by
  cases i with
  | qInit | exec | feedUnchecked => rfl
  | qAdd instr storeAddr => exact decodeCommand_commandWord (by decide)
  | qAddLi reg optimize value =>
    refine (decodeCommand_commandWord (qAddLi_legal reg optimize)).trans ?_
    simp only [commandOf, opField_commandWord, regField_commandWord, b14_commandWord]
    rfl
  | setMode mode => cases mode <;> rfl
  | setSnapshot reg value =>
    refine (decodeCommand_commandWord (setSnapshot_legal reg)).trans ?_
    simp only [commandOf, opField_commandWord, regField_commandWord]
    rfl
  | recover first last =>
    refine (decodeCommand_commandWord (recover_legal first last)).trans ?_
    simp only [commandOf, opField_commandWord, regField_commandWord, reg2Field_commandWord]
    rfl
  | setIsa isa endian => cases isa <;> cases endian <;> rfl
  | reservedCmd9 rest =>
    refine (decodeCommand_reserved9 BitVec.extractLsb'_append_eq_right).trans ?_
    rw [BitVec.extractLsb'_append_eq_left]
  | reservedCmdAB rest low =>
    rw [encode, reservedAB_word]
    refine (decodeCommand_reservedAB BitVec.extractLsb'_append_eq_right).trans ?_
    rw [BitVec.extractLsb'_append_eq_left]
  | reservedCmdCF rest low =>
    rw [encode, reservedCF_word]
    refine (decodeCommand_reservedCF BitVec.extractLsb'_append_eq_right).trans ?_
    rw [BitVec.extractLsb'_append_eq_left]
  | ctrlNotPending | ctrlFetch | ctrlStore | nop | lui | ori | j | b => cases command

/-- A legal record of a defined opcode is the command word of its command's operands: the fields that it does not use are 0. -/
theorem encode_commandOf {w0 w1 w2 : Word} (defined : (opField w0).toNat < 9)
    (legal : w0 &&& unusedMask (opField w0) = 0#32) :
    (commandOf w0 w1 w2).surface = .command ∧ (encode (commandOf w0 w1 w2)).head? = some w0 := by
  have zero := field_eq_zero legal
  have off := bit_eq_false legal
  have mode : ((if w0.getLsbD 14 then Mode.batched else .sync) == .batched) = w0.getLsbD 14 := by
    cases w0.getLsbD 14 <;> rfl
  have isa : ((if w0.getLsbD 14 then Isa.microMips else .mips32) == .microMips) = w0.getLsbD 14 := by
    cases w0.getLsbD 14 <;> rfl
  have endian : ((if w0.getLsbD 15 then Endian.little else .big) == .little) = w0.getLsbD 15 := by
    cases w0.getLsbD 15 <;> rfl
  unfold commandOf
  obtain op | op | op | op | op | op | op | op | op := opcode_defined_cases _ defined <;>
    rw [op] at legal zero off ⊢ <;> refine ⟨rfl, congrArg some ?_⟩
  · exact commandWord_plain op legal
  · exact commandWord_plain op legal
  · exact commandWord_eq_of_fields (zero 16 16 rfl) op rfl (zero 9 5 rfl) rfl (off 15 rfl)
  · exact commandWord_plain op legal
  · exact commandWord_plain op legal
  · rw [mode]
    exact commandWord_eq_of_fields (zero 16 16 rfl) op (zero 4 5 rfl) (zero 9 5 rfl) rfl (off 15 rfl)
  · exact commandWord_eq_of_fields (zero 16 16 rfl) op rfl (zero 9 5 rfl) (off 14 rfl) (off 15 rfl)
  · exact commandWord_eq_of_fields (zero 16 16 rfl) op rfl rfl (off 14 rfl) (off 15 rfl)
  · rw [isa, endian]
    exact commandWord_eq_of_fields (zero 16 16 rfl) op (zero 4 5 rfl) (zero 9 5 rfl) rfl rfl

/-- A record that decodes is, but for W1 and W2, the encoding of its command. -/
theorem encode_decodeCommand {w0 w1 w2 : Word} {i : Instr} (decoded : decodeCommand w0 w1 w2 = .ok i) :
    i.surface = .command ∧ (encode i).head? = some w0 := by
  have whole : (w0.extractLsb' 4 28 ++ opField w0 : Word) = w0 := BitVec.extractLsb'_append_extractLsb'
  by_cases reserved : 9 ≤ (opField w0).toNat
  · obtain field | ⟨low, field⟩ | ⟨low, field⟩ := opcode_reserved_cases _ reserved
    · rw [decodeCommand_reserved9 field] at decoded
      cases decoded
      exact ⟨rfl, congrArg some (field ▸ whole)⟩
    · rw [decodeCommand_reservedAB field] at decoded
      cases decoded
      exact ⟨rfl, congrArg some ((reservedAB_word _ low).trans (field ▸ whole))⟩
    · rw [decodeCommand_reservedCF field] at decoded
      cases decoded
      exact ⟨rfl, congrArg some ((reservedCF_word _ low).trans (field ▸ whole))⟩
  · unfold decodeCommand at decoded
    split_ifs at decoded with legal
    cases decoded
    exact encode_commandOf (not_le.1 reserved) legal

/-! ## Control words (rule R85) -/

section
variable (praccBit prnwBit : Fin 32) (c : Word)

theorem classify_eq_notPending_iff : classify praccBit prnwBit c = .notPending ↔ c.getLsbD praccBit = false := by
  unfold classify; cases c.getLsbD praccBit <;> cases c.getLsbD prnwBit <;> decide

theorem classify_eq_fetch_iff :
    classify praccBit prnwBit c = .fetch ↔ c.getLsbD praccBit = true ∧ c.getLsbD prnwBit = false := by
  unfold classify; cases c.getLsbD praccBit <;> cases c.getLsbD prnwBit <;> decide

theorem classify_eq_store_iff :
    classify praccBit prnwBit c = .store ↔ c.getLsbD praccBit = true ∧ c.getLsbD prnwBit = true := by
  unfold classify; cases c.getLsbD praccBit <;> cases c.getLsbD prnwBit <;> decide

theorem encode_control {i : Instr} (control : i.surface = .control) : ∃ c, encode i = [c] := by
  cases i with
  | ctrlNotPending c | ctrlFetch c | ctrlStore c => exact ⟨c, rfl⟩
  | qInit | qAdd | qAddLi | exec | feedUnchecked | setMode | setSnapshot | recover | setIsa | reservedCmd9 | reservedCmdAB
  | reservedCmdCF | nop | lui | ori | j | b => cases control

/-- A control word decodes to the row of its class. -/
theorem decodeControl_eq_iff {i : Instr} :
    decodeControl praccBit prnwBit c = i ↔ i.surface = .control ∧ i.wfUnder praccBit prnwBit = true ∧ encode i = [c] := by
  unfold decodeControl
  constructor
  · rintro rfl
    split
    case h_1 cls => simpa [Instr.surface, Instr.wfUnder, encode] using (classify_eq_notPending_iff praccBit prnwBit c).1 cls
    case h_2 cls => simpa [Instr.surface, Instr.wfUnder, encode] using (classify_eq_fetch_iff praccBit prnwBit c).1 cls
    case h_3 cls => simpa [Instr.surface, Instr.wfUnder, encode] using (classify_eq_store_iff praccBit prnwBit c).1 cls
  · rintro ⟨control, wf, word⟩
    cases i with
    | ctrlNotPending d =>
      cases word
      rw [(classify_eq_notPending_iff praccBit prnwBit c).2 (by simpa [Instr.wfUnder] using wf)]
    | ctrlFetch d =>
      cases word
      rw [(classify_eq_fetch_iff praccBit prnwBit c).2 (by simpa [Instr.wfUnder] using wf)]
    | ctrlStore d =>
      cases word
      rw [(classify_eq_store_iff praccBit prnwBit c).2 (by simpa [Instr.wfUnder] using wf)]
    | qInit | qAdd | qAddLi | exec | feedUnchecked | setMode | setSnapshot | recover | setIsa | reservedCmd9 | reservedCmdAB
    | reservedCmdCF | nop | lui | ori | j | b => cases control

end

/-- Settles O6: a class is a value of the two bits. -/
theorem controlWordsClassifyByTwoBits : Obligations.ControlWordsClassifyByTwoBits := by
  refine fun p n c => ⟨classify_eq_notPending_iff p n c, classify_eq_fetch_iff p n c, classify_eq_store_iff p n c, ?_⟩
  intro d pracc prnw
  rw [classify, pracc, prnw, classify]

/-! ## Emitted words (rules R89 to R93) -/

/-- A word with a 1 in its major opcode is not NOP. -/
theorem ne_nop_of_major {w : Word} {m : BitVec 6} (major : w.extractLsb' 26 6 = m) (ne : m ≠ 0#6) : w ≠ 0#32 := by
  rintro rfl
  exact ne major.symm

/-- A word of another major opcode than LUI's is not LUI. -/
theorem ne_lui_of_major {w : Word} {m : BitVec 6} (major : w.extractLsb' 26 6 = m) (ne : m ≠ 0b001111#6) :
    w.extractLsb' 21 11 ≠ 0b00111100000#11 := by
  intro lui
  have parts : (w.extractLsb' 26 6 ++ w.extractLsb' 21 5 : BitVec 11) = w.extractLsb' 21 11 :=
    BitVec.extractLsb'_append_extractLsb'_eq_extractLsb' rfl
  refine ne ?_
  rw [← major, ← BitVec.extractLsb'_append_eq_left (a := w.extractLsb' 26 6) (b := w.extractLsb' 21 5), parts, lui]
  rfl

theorem decodeWord_luiWord (rt : RegNum) (imm : BitVec 16) : decodeWord (luiWord rt imm) = .ok (.lui rt imm) := by
  have top : (luiWord rt imm).extractLsb' 21 11 = 0b00111100000#11 := by
    simp only [luiWord, BitVec.extractLsb'_append_eq_ite]; simp
  have hrt : (luiWord rt imm).extractLsb' 16 5 = rt := by
    simp only [luiWord, BitVec.extractLsb'_append_eq_ite]; simp
  have ne : luiWord rt imm ≠ 0#32 := fun e => by rw [e] at top; exact absurd top (by decide)
  rw [decodeWord, if_neg ne, if_pos top, hrt, luiWord, BitVec.extractLsb'_append_eq_right]

theorem decodeWord_oriWord (rt rs : RegNum) (imm : BitVec 16) : decodeWord (oriWord rt rs imm) = .ok (.ori rt rs imm) := by
  have major : (oriWord rt rs imm).extractLsb' 26 6 = 0b001101#6 := by
    simp only [oriWord, BitVec.extractLsb'_append_eq_ite]; simp
  have hrs : (oriWord rt rs imm).extractLsb' 21 5 = rs := by
    simp only [oriWord, BitVec.extractLsb'_append_eq_ite]; simp
  have hrt : (oriWord rt rs imm).extractLsb' 16 5 = rt := by
    simp only [oriWord, BitVec.extractLsb'_append_eq_ite]; simp
  rw [decodeWord, if_neg (ne_nop_of_major major (by decide)), if_neg (ne_lui_of_major major (by decide)), if_pos major,
    hrs, hrt, oriWord, BitVec.extractLsb'_append_eq_right]

theorem decodeWord_jWord (index : BitVec 26) : decodeWord (jWord index) = .ok (.j index) := by
  have major : (jWord index).extractLsb' 26 6 = 0b000010#6 := BitVec.extractLsb'_append_eq_left
  rw [decodeWord, if_neg (ne_nop_of_major major (by decide)), if_neg (ne_lui_of_major major (by decide)),
    if_neg (by rw [major]; decide), if_pos major, jWord, BitVec.extractLsb'_append_eq_right]

theorem decodeWord_bWord (off : BitVec 16) : decodeWord (bWord off) = .ok (.b off) := by
  have upper : (bWord off).extractLsb' 16 16 = 0x1000#16 := BitVec.extractLsb'_append_eq_left
  have major : (bWord off).extractLsb' 26 6 = 0b000100#6 := by
    simp only [bWord, BitVec.extractLsb'_append_eq_ite]; simp
  rw [decodeWord, if_neg (ne_nop_of_major major (by decide)), if_neg (ne_lui_of_major major (by decide)),
    if_neg (by rw [major]; decide), if_neg (by rw [major]; decide), if_pos upper, bWord, BitVec.extractLsb'_append_eq_right]

theorem decode_encode_word {i : Instr} (word : i.surface = .word) : decode .word (encode i) = .ok i := by
  cases i with
  | nop => rfl
  | lui rt imm => exact decodeWord_luiWord rt imm
  | ori rt rs imm => exact decodeWord_oriWord rt rs imm
  | j index => exact decodeWord_jWord index
  | b off => exact decodeWord_bWord off
  | qInit | qAdd | qAddLi | exec | feedUnchecked | setMode | setSnapshot | recover | setIsa | reservedCmd9 | reservedCmdAB
  | reservedCmdCF | ctrlNotPending | ctrlFetch | ctrlStore => cases word

theorem encode_decodeWord {w : Word} {i : Instr} (decoded : decodeWord w = .ok i) : i.surface = .word ∧ encode i = [w] := by
  unfold decodeWord at decoded
  split_ifs at decoded with nop lui ori j b <;> cases decoded <;> refine ⟨rfl, congrArg ([·]) ?_⟩
  · exact nop.symm
  · have top : 0b001111#6 ++ 0#5 = w.extractLsb' 21 11 := lui.symm
    rw [luiWord, top, BitVec.extractLsb'_append_extractLsb'_eq_extractLsb' (by rfl)]
    exact BitVec.extractLsb'_append_extractLsb'
  · rw [oriWord, ← ori, BitVec.extractLsb'_append_extractLsb'_eq_extractLsb' (by rfl),
      BitVec.extractLsb'_append_extractLsb'_eq_extractLsb' (by rfl)]
    exact BitVec.extractLsb'_append_extractLsb'
  · rw [jWord, ← j]
    exact BitVec.extractLsb'_append_extractLsb'
  · have upper : 0b000100#6 ++ 0#5 ++ 0#5 = w.extractLsb' 16 16 := b.symm
    rw [bWord, upper]
    exact BitVec.extractLsb'_append_extractLsb'

/-! ## All surfaces -/

/-- Settles O3: the decoders evaluate the literals. -/
theorem writtenOutWordsDecode : Obligations.WrittenOutWordsDecode :=
  ⟨rfl, rfl, rfl, rfl, rfl, rfl, rfl, rfl, rfl, rfl, rfl, rfl⟩

/-- Settles O4: each surface's decoder reads each field back from where the encoder puts it. -/
theorem decodeOfEncodeIsTheInstruction : Obligations.DecodeOfEncodeIsTheInstruction := by
  intro i wf
  cases surface : i.surface with
  | command => exact decode_encode_command surface
  | word => exact decode_encode_word surface
  | control =>
    obtain ⟨c, word⟩ := encode_control surface
    rw [word]
    exact congrArg Except.ok ((decodeControl_eq_iff 18 19 c).2 ⟨surface, wf, word⟩)

/-- Settles O5: each surface's decoder accepts no word but the encoding of what it answers. -/
theorem encodeOfDecodeIsTheWord : Obligations.EncodeOfDecodeIsTheWord :=
  ⟨fun _ _ _ _ decoded => encode_decodeCommand decoded,
    fun c _ decoded => (decodeControl_eq_iff 18 19 c).1 (Except.ok.inj decoded),
    fun _ _ decoded => encode_decodeWord decoded⟩

/-! ## The record and the finish word (rules R86, R87) -/

theorem getLsbD_packRecord_ctrl (r : Record) {i : Nat} (h : i < 32) : (packRecord r).getLsbD i = r.ctrl.getLsbD i := by
  rw [packRecord, BitVec.getLsbD_append, if_pos h]

theorem getLsbD_packRecord_data (r : Record) {i : Nat} (h : i < 32) : (packRecord r).getLsbD (32 + i) = r.data.getLsbD i := by
  rw [packRecord, BitVec.getLsbD_append, if_neg (by omega), Nat.add_sub_cancel_left, BitVec.getLsbD_append, if_pos h]

theorem getLsbD_packRecord_addr (r : Record) {i : Nat} (h : i < 32) : (packRecord r).getLsbD (64 + i) = r.addr.getLsbD i := by
  rw [packRecord, BitVec.getLsbD_append, if_neg (by omega), show 64 + i - 32 = 32 + i by omega, BitVec.getLsbD_append,
    if_neg (by omega), Nat.add_sub_cancel_left]

theorem unpackRecord_packRecord (r : Record) : unpackRecord (packRecord r) = r := by
  obtain ⟨ctrl, data, addr⟩ := r
  simp only [unpackRecord, packRecord, Record.mk.injEq]
  exact ⟨BitVec.extractLsb'_append_eq_right,
    (BitVec.extractLsb'_append_eq_of_le (by decide)).trans BitVec.extractLsb'_append_eq_right,
    (BitVec.extractLsb'_append_eq_of_le (by decide)).trans BitVec.extractLsb'_append_eq_left⟩

theorem packRecord_unpackRecord (v : BitVec 96) : packRecord (unpackRecord v) = v := by
  unfold unpackRecord packRecord
  rw [BitVec.extractLsb'_append_extractLsb'_eq_extractLsb' (by rfl)]
  exact BitVec.extractLsb'_append_extractLsb'

/-- Settles O7: the three fields stand one above the other. -/
theorem recordFieldsKeepTheirPlaces : Obligations.RecordFieldsKeepTheirPlaces :=
  ⟨fun r _ h => ⟨getLsbD_packRecord_ctrl r h, getLsbD_packRecord_data r h, getLsbD_packRecord_addr r h⟩,
    unpackRecord_packRecord, packRecord_unpackRecord⟩

/-- CTRL_BASE observes: its handshake bit is set (rule R10). -/
theorem ctrlBase_praccBit (cfg : Config) : cfg.ctrlBase.getLsbD cfg.praccBit = true := by
  have sound := cfg.sound
  unfold Params.problem? at sound
  split_ifs at sound with _ _ _ _ _ clear
  exact Bool.eq_true_of_not_eq_false clear

/-- Settles O8: the mask has a 1 at every bit but the handshake bit. -/
theorem finishWordClearsOnlyTheHandshakeBit : Obligations.FinishWordClearsOnlyTheHandshakeBit := by
  intro cfg i
  refine ⟨ctrlBase_praccBit cfg, ?_⟩
  have bit : (1#32 <<< cfg.praccBit.val).getLsbD i = decide (i = cfg.praccBit) := by
    rw [← BitVec.twoPow_eq, BitVec.getLsbD_twoPow, decide_eq_true cfg.praccBit.isLt, Bool.true_and]
    exact decide_eq_decide.2 (by rw [Fin.ext_iff]; exact eq_comm)
  rw [finWord, BitVec.getLsbD_and, BitVec.getLsbD_not, bit]
  by_cases h : i = cfg.praccBit <;> simp [h]

end Sys2Proof.Proofs
end

section
/-! SUPPORT. The words the target executes (rules R89 to R93): their numbers, and their effects on the registers and on where the
target goes. -/

namespace Sys2Proof.Proofs

open Sys2Proof.Machine Sys2Proof.Safety

/-! ## The words as numbers -/

/-- The upper four bits in their places (rule R92). -/
theorem upperNibble_eq_and (x : Word) : (x.extractLsb' 28 4).setWidth 32 <<< 28 = x &&& 0xF0000000#32 := by
  have mask : 0xF0000000#32 = BitVec.allOnes 32 <<< 28 := rfl
  rw [mask]
  ext i hi
  simp only [BitVec.getElem_shiftLeft, BitVec.getElem_and, BitVec.getElem_setWidth, BitVec.getElem_allOnes,
    BitVec.getLsbD_extractLsb']
  by_cases low : i < 28
  · simp [low]
  · simp [low, show i - 28 < 4 by omega, show 28 + (i - 28) = i by omega, ← BitVec.getLsbD_eq_getElem]

/-- Bits 27 to 2, moved down (rule R92). -/
theorem jumpIndex_eq_shift (x : Word) : (x.extractLsb' 2 26).setWidth 32 = (x &&& 0x0FFFFFFF#32) >>> 2 := by
  have mask : 0x0FFFFFFF#32 = (BitVec.allOnes 28).setWidth 32 := rfl
  rw [mask]
  ext i hi
  simp only [BitVec.getElem_ushiftRight, BitVec.getLsbD_and, BitVec.getElem_setWidth, BitVec.getLsbD_setWidth,
    BitVec.getLsbD_allOnes, BitVec.getLsbD_extractLsb']
  by_cases low : i < 26
  · simp [low, show 2 + i < 28 by omega, show 2 + i < 32 by omega]
  · simp [low, show ¬ 2 + i < 28 by omega]

theorem luiWord_eq (rt : RegNum) (imm : BitVec 16) :
    luiWord rt imm = 0x3C000000#32 ||| (rt.zeroExtend 32 <<< 16) ||| imm.zeroExtend 32 := by
  have parts := BitVec.setWidth_append_append_eq_shiftLeft_setWidth_or (b := 0b001111#6 ++ 0#5) (b' := rt) (b'' := imm)
    (w''' := 32)
  rw [BitVec.setWidth_eq] at parts
  exact parts

theorem oriWord_eq (rt rs : RegNum) (imm : BitVec 16) :
    oriWord rt rs imm =
      0x34000000#32 ||| (rs.zeroExtend 32 <<< 21) ||| (rt.zeroExtend 32 <<< 16) ||| imm.zeroExtend 32 := by
  have parts := BitVec.setWidth_append_append_append_eq_shiftLeft_setWidth_or (b := 0b001101#6) (b' := rs) (b'' := rt)
    (b''' := imm) (w'''' := 32)
  rw [BitVec.setWidth_eq] at parts
  exact parts

theorem jTo_eq (target : Word) : jTo target = 0x08000000#32 ||| ((target &&& 0x0FFFFFFF#32) >>> 2) := by
  have parts := BitVec.setWidth_append_eq_shiftLeft_setWidth_or (b := 0b000010#6) (b' := target.extractLsb' 2 26) (w'' := 32)
  rw [BitVec.setWidth_eq, jumpIndex_eq_shift] at parts
  exact parts

theorem bWord_eq (off : BitVec 16) : bWord off = 0x10000000#32 ||| off.zeroExtend 32 := by
  have parts := BitVec.setWidth_append_eq_shiftLeft_setWidth_or (b := 0b000100#6 ++ 0#5 ++ 0#5) (b' := off) (w'' := 32)
  rw [BitVec.setWidth_eq] at parts
  exact parts

/-! ## Where branches go -/

theorem jumpTarget_eq (pc : Word) (index : BitVec 26) :
    jumpTarget pc index = (pc + 4#32) &&& 0xF0000000#32 ||| (index.zeroExtend 32 <<< 2) := by
  have parts := BitVec.setWidth_append_append_eq_shiftLeft_setWidth_or (b := (pc + 4#32).extractLsb' 28 4) (b' := index)
    (b'' := 0#2) (w''' := 32)
  rw [BitVec.setWidth_eq, upperNibble_eq_and] at parts
  exact parts.trans BitVec.or_zero

theorem branchTarget_eq (pc : Word) (off : BitVec 16) :
    branchTarget pc off = BitVec.ofInt 32 (pc.toNat + 4 + 4 * off.toInt) := by
  rw [BitVec.ofInt_add, BitVec.ofInt_add, BitVec.ofInt_mul, BitVec.ofInt_natCast, BitVec.ofNat_toNat, BitVec.setWidth_eq,
    BitVec.mul_comm]
  rfl

/-- A branch at index `k` with off = -(k + 1) goes to the program's first word (rules R93, R264). -/
theorem branchTarget_textAddr (cfg : Config) {k : Nat} (h : k < 32768) :
    branchTarget (textAddr cfg k) (-(BitVec.ofNat 16 (k + 1))) = cfg.textBase := by
  have off : (-(BitVec.ofNat 16 (k + 1))).toInt = -((k + 1 : Nat) : Int) := by
    rw [BitVec.neg_ofNat_eq_ofInt_neg, BitVec.toInt_ofInt]
    exact Int.bmod_eq_of_le (by omega) (by omega)
  have one : 1#32 = (1 : Word) := rfl
  rw [branchTarget, BitVec.signExtend, off, BitVec.ofInt_neg, BitVec.ofInt_natCast, textAddr, BitVec.ofNat_mul, BitVec.ofNat_add,
    one]
  ring

/-- Settles O59: a word is the sum of its fields, each shifted to its place. -/
theorem emittedWordsHaveTheirNumbers : Obligations.EmittedWordsHaveTheirNumbers :=
  ⟨rfl, luiWord_eq, oriWord_eq, jTo_eq, bWord_eq, fun cfg _ h => branchTarget_textAddr cfg h⟩

/-- Settles O58: the two destinations, as numbers. -/
theorem branchesGoWhereTheirFieldSays : Obligations.BranchesGoWhereTheirFieldSays := by
  refine ⟨fun s index => ?_, fun s off => ?_⟩
  · rw [← jumpTarget_eq]; rfl
  · rw [← branchTarget_eq]; rfl

/-! ## The registers of the target (rules R89 to R91) -/

/-- A read after a write: $0 reads 0, and a write to it has no effect (rules R115, R117). -/
theorem readGpr_writeGpr (t : Target) (rt r : RegNum) (v : Word) :
    readGpr (writeGpr t rt v) r = if r = rt ∧ rt ≠ 0 then v else readGpr t r := by
  unfold writeGpr
  by_cases zero : rt = 0
  · rw [if_pos zero, if_neg fun h => h.2 zero]
  · rw [if_neg zero]
    by_cases same : r = rt
    · subst same
      rw [if_pos ⟨rfl, zero⟩, readGpr, if_neg zero]
      exact Vector.getElem_set_self _
    · have other : rt.toNat ≠ r.toNat := fun e => same (BitVec.eq_of_toNat_eq e.symm)
      rw [if_neg fun h => same h.1, readGpr, readGpr]
      exact congrArg (ite _ _) (Vector.getElem_set_ne rt.isLt r.isLt other)

theorem readGpr_zero (t : Target) : readGpr t 0 = 0#32 := rfl

@[simp] theorem readGpr_advance (t : Target) (r : RegNum) : readGpr (advance t) r = readGpr t r := rfl

@[simp] theorem writeGpr_npc (t : Target) (rt : RegNum) (v : Word) : (writeGpr t rt v).npc = t.npc := by
  unfold writeGpr; split <;> rfl

/-- Settles O57: each word writes its register at most, and goes on. -/
theorem loadWordsWriteTheirRegister : Obligations.LoadWordsWriteTheirRegister := by
  refine ⟨fun s => ⟨_, rfl, rfl, fun _ => rfl, rfl, rfl⟩, fun s rt imm => ⟨_, rfl, rfl, fun r => ?_, rfl, ?_, ?_⟩,
    fun s rt rs imm => ⟨_, rfl, rfl, fun r => ?_, rfl, ?_, ?_⟩⟩
  · exact readGpr_writeGpr s.target rt r _
  · exact writeGpr_npc ..
  · exact congrArg (· + 4#32) (writeGpr_npc ..)
  · exact readGpr_writeGpr s.target rt r _
  · exact writeGpr_npc ..
  · exact congrArg (· + 4#32) (writeGpr_npc ..)

/-! ## Straight runs of loads -/

theorem stepTarget_decoded {w : Word} {i : Instr} {s : State} (isa : s.ses.isa = .mips32) (decoded : decodeWord w = .ok i) :
    stepTarget w s = exec i s := by
  unfold stepTarget
  rw [isa]
  simp only [decoded]

theorem executeWords_cons {w : Word} {s t : State} (next : stepTarget w s = .next t) (ws : List Word) :
    executeWords (w :: ws) s = executeWords ws t := by
  rw [executeWords, next]

theorem executeWords_append {ws : List Word} {s t : State} (first : executeWords ws s = some t) (vs : List Word) :
    executeWords (ws ++ vs) s = executeWords vs t := by
  induction ws generalizing s with
  | nil => cases first; rfl
  | cons w ws ih =>
    rw [executeWords] at first
    split at first
    case h_1 u next => rw [List.cons_append, executeWords_cons next, ih first]
    all_goals cases first

/-- What `n` words that load registers come to on the target: `f` gives each register's value from the one it had, and no
branch is taken. -/
structure Loaded (n : Nat) (f : RegNum → Word → Word) (t x : Target) : Prop where
  gpr : ∀ r, readGpr x r = f r (readGpr t r)
  npc : x.npc = t.npc + BitVec.ofNat 32 (4 * n)
  straight : t.npc = t.pc + 4#32 → x.npc = x.pc + 4#32

/-- The words load registers by `f`, from every state of the target. -/
def Loads (ws : List Word) (f : RegNum → Word → Word) : Prop :=
  ∀ s : State, s.ses.isa = .mips32 → ∃ x, executeWords ws s = some (s.withTarget x) ∧ Loaded ws.length f s.target x

theorem loads_nil : Loads [] fun _ v => v := fun s _ =>
  ⟨s.target, rfl, fun _ => rfl, (BitVec.add_zero _).symm, id⟩

theorem Loads.append {ws vs : List Word} {f g : RegNum → Word → Word} (h : Loads ws f) (k : Loads vs g) :
    Loads (ws ++ vs) fun r v => g r (f r v) := by
  intro s isa
  obtain ⟨x, first, hx⟩ := h s isa
  obtain ⟨y, second, hy⟩ := k (s.withTarget x) isa
  refine ⟨y, (executeWords_append first vs).trans second, fun r => ?_, ?_, fun straight => hy.straight (hx.straight straight)⟩
  · rw [hy.gpr, State.withTarget_target, hx.gpr]
  · rw [hy.npc, State.withTarget_target, hx.npc, BitVec.add_assoc, ← BitVec.ofNat_add, ← Nat.mul_add, List.length_append]

theorem Loads.congr {ws : List Word} {f g : RegNum → Word → Word} (h : Loads ws f) (e : ∀ r v, f r v = g r v) : Loads ws g :=
  (funext fun r => funext fun v => e r v : f = g) ▸ h

/-- A word that writes one register and goes on. -/
theorem loads_write {w : Word} {i : Instr} (decoded : decodeWord w = .ok i) {rt : RegNum} {f : RegNum → Word → Word}
    (write : ∀ s, ∃ v, exec i s = .next (s.withTarget (advance (writeGpr s.target rt v))) ∧
      ∀ r, (if r = rt ∧ rt ≠ 0 then v else readGpr s.target r) = f r (readGpr s.target r)) : Loads [w] f := by
  intro s isa
  obtain ⟨v, next, value⟩ := write s
  have step : stepTarget w s = .next (s.withTarget (advance (writeGpr s.target rt v))) :=
    (stepTarget_decoded isa decoded).trans next
  refine ⟨_, executeWords_cons step [], fun r => ?_, ?_, fun _ => rfl⟩
  · rw [readGpr_advance, readGpr_writeGpr, value]
  · exact congrArg (· + 4#32) (writeGpr_npc ..)

/-- A register takes a value; the others, and $0, keep theirs. -/
def loadValue (reg : RegNum) (value : Word) (r : RegNum) (old : Word) : Word := if r = reg ∧ reg ≠ 0 then value else old

theorem loads_lui (rt : RegNum) (imm : BitVec 16) : Loads [luiWord rt imm] (loadValue rt (imm ++ 0#16)) :=
  loads_write (decodeWord_luiWord rt imm) fun _ => ⟨_, rfl, fun _ => rfl⟩

theorem loads_ori_zero (rt : RegNum) (imm : BitVec 16) : Loads [oriWord rt 0 imm] (loadValue rt (0#16 ++ imm)) :=
  loads_write (decodeWord_oriWord rt 0 imm) fun s => ⟨_, rfl, fun r => by
    rw [readGpr_zero, BitVec.zero_or, BitVec.zeroExtend_eq_setWidth, BitVec.setWidth_eq_append (by decide)]; rfl⟩

theorem loads_ori_self (rt : RegNum) (imm : BitVec 16) :
    Loads [oriWord rt rt imm] fun r v => loadValue rt (v ||| (0#16 ++ imm)) r v :=
  loads_write (decodeWord_oriWord rt rt imm) fun s => ⟨_, rfl, fun r => by
    unfold loadValue
    rw [BitVec.zeroExtend_eq_setWidth, BitVec.setWidth_eq_append (by decide)]
    split_ifs with h <;> [rw [h.1]; rfl]
    rfl⟩

/-- The words of a load leave the full value (rules R115 to R117). -/
theorem loads_liWords (reg : RegNum) (optimize : Bool) (value : Word) :
    Loads (liWords .mips32 reg optimize value) (loadValue reg value) := by
  have halves : value.extractLsb' 16 16 ++ value.extractLsb' 0 16 = value := BitVec.extractLsb'_append_extractLsb'
  have upper := loads_lui reg (value.extractLsb' 16 16)
  unfold liWords
  simp only
  split_ifs with low high
  · have low : value.extractLsb' 0 16 = 0#16 := by simpa using (Bool.and_eq_true_iff.1 low).2
    rwa [← low, halves] at upper
  · have high : value.extractLsb' 16 16 = 0#16 := by simpa using (Bool.and_eq_true_iff.1 high).2
    have lower := loads_ori_zero reg (value.extractLsb' 0 16)
    rwa [← high, halves] at lower
  · have both := upper.append (loads_ori_self reg (value.extractLsb' 0 16))
    refine both.congr fun r v => ?_
    unfold loadValue
    split_ifs
    · rw [BitVec.or_append, BitVec.or_zero, BitVec.zero_or, halves]
    · rfl

/-! ## The recovery program (rule R264) -/

theorem scratchNumber_injective {p q : Scratch} (h : scratchNumber p = scratchNumber q) : p = q := by
  revert h; cases p <;> cases q <;> decide

/-- The loads of the recovery program: each valid register of the list in the range. -/
def snapshotLoads (snap : SnapFile) (first last : RegNum) (rs : List Scratch) : List Word :=
  rs.flatMap fun r =>
    if inRange first last (scratchNumber r) && (snapGet snap r).valid then
      liWords .mips32 (scratchNumber r) true (snapGet snap r).value
    else []

/-- What the recovery program leaves in a register: the snapshot value of a valid register of the list in the range. -/
def restored (snap : SnapFile) (first last : RegNum) (rs : List Scratch) (r : RegNum) (old : Word) : Word :=
  match rs.find? fun q => scratchNumber q == r with
  | some q => if inRange first last r = true ∧ (snapGet snap q).valid = true then (snapGet snap q).value else old
  | none => old

/-- The load of one register, or nothing. -/
theorem loads_restored_one (snap : SnapFile) (first last : RegNum) (q : Scratch) :
    Loads
      (if inRange first last (scratchNumber q) && (snapGet snap q).valid then
        liWords .mips32 (scratchNumber q) true (snapGet snap q).value
      else [])
      (restored snap first last [q]) := by
  have ne : scratchNumber q ≠ 0 := by cases q <;> decide
  split_ifs with load
  · refine (loads_liWords _ _ _).congr fun r v => ?_
    rw [Bool.and_eq_true] at load
    by_cases same : scratchNumber q = r
    · subst same
      rw [loadValue, if_pos ⟨rfl, ne⟩]
      simp [restored, load]
    · simp [loadValue, restored, same, Ne.symm same]
  · refine loads_nil.congr fun r v => ?_
    rw [Bool.and_eq_true] at load
    by_cases same : scratchNumber q = r
    · subst same
      simp [restored, load]
    · simp [restored, same]

/-- A register that is on the list twice is loaded with one value twice. -/
theorem restored_cons (snap : SnapFile) (first last : RegNum) (q : Scratch) (rs : List Scratch) (r : RegNum) (old : Word) :
    restored snap first last rs r (restored snap first last [q] r old) = restored snap first last (q :: rs) r old := by
  by_cases same : scratchNumber q = r
  · cases found : rs.find? fun p => scratchNumber p == r with
    | none => simp [restored, found, same]
    | some p =>
      have hp : p = q := scratchNumber_injective (by simpa [same] using List.find?_some found)
      by_cases load : inRange first last r = true ∧ (snapGet snap q).valid = true <;> simp [restored, found, same, hp, load]
  · simp [restored, same]

theorem loads_snapshotLoads (snap : SnapFile) (first last : RegNum) (rs : List Scratch) :
    Loads (snapshotLoads snap first last rs) (restored snap first last rs) := by
  induction rs with
  | nil => exact loads_nil
  | cons q rs ih => exact ((loads_restored_one snap first last q).append ih).congr (restored_cons snap first last q rs)

/-- The words of a recovery program that is not empty. -/
theorem recoveryProgram_words {snap : SnapFile} {first last : RegNum} (ne : recoveryProgram .mips32 snap first last ≠ []) :
    let loads := snapshotLoads snap first last scratchSet
    (recoveryProgram .mips32 snap first last).map Entry.instr =
      loads ++ [bWord (-(BitVec.ofNat 16 (loads.length + 1))), nopWord] := by
  intro loads
  have program : recoveryProgram .mips32 snap first last =
      if loads = [] then []
      else (loads ++ [bWord (-(BitVec.ofNat 16 (loads.length + 1))), nopWord]).map fun w => { instr := w, addr := 0#32 } := rfl
  by_cases empty : loads = []
  · exact absurd (program.trans (if_pos empty)) ne
  · rw [program, if_neg empty, List.map_map]
    exact List.map_id _

/-- A branch and its delay slot (rule R93, log entry 13). -/
theorem executeWords_branch_nop {s : State} (isa : s.ses.isa = .mips32) (off : BitVec 16) :
    executeWords [bWord off, nopWord] s =
      some (s.withTarget (advance (branchTo s.target (branchTarget s.target.pc off)))) := by
  have branch : stepTarget (bWord off) s = .next (s.withTarget (branchTo s.target (branchTarget s.target.pc off))) :=
    stepTarget_decoded isa (decodeWord_bWord off)
  have slot (t : Target) : stepTarget nopWord (s.withTarget t) = .next (s.withTarget (advance t)) :=
    stepTarget_decoded (s := s.withTarget t) (i := .nop) isa rfl
  rw [executeWords_cons branch, executeWords_cons (slot _)]
  rfl

/-- Settles O27: the loads run straight up to the branch, which stands at their length and goes back by it. -/
theorem recoveryProgramRestoresTheSnapshot : Obligations.RecoveryProgramRestoresTheSnapshot := by
  intro s first last isa pc npc ne
  have words := recoveryProgram_words ne
  have length := recoveryProgram_length_le .mips32 s.ses.snap first last
  rw [← List.length_map (f := Entry.instr), words] at length
  obtain ⟨x, run, loaded⟩ := loads_snapshotLoads s.ses.snap first last scratchSet s isa
  set loads := snapshotLoads s.ses.snap first last scratchSet
  have straight := loaded.straight (by rw [npc, pc])
  have at_branch : x.pc = textAddr s.cfg loads.length := by
    have npc_eq := loaded.npc
    rw [straight, npc, add_right_comm] at npc_eq
    exact add_right_cancel npc_eq
  have back : branchTarget x.pc (-(BitVec.ofNat 16 (loads.length + 1))) = s.cfg.textBase := by
    rw [at_branch]
    refine branchTarget_textAddr s.cfg ?_
    simp only [List.length_append, List.length_cons, List.length_nil] at length
    omega
  rw [words, executeWords_append run, executeWords_branch_nop (s := s.withTarget x) isa]
  exact ⟨_, rfl, back, congrArg (· + 4#32) back, loaded.gpr⟩

end Sys2Proof.Proofs
end

section
/-! SUPPORT. Records that are refused, the expansion of q.li, and what a captured control word does (rules R83, R85, R96). -/

namespace Sys2Proof.Proofs

open Sys2Proof.Machine Sys2Proof.Safety

/-! ## Illegal records (rule R83) -/

theorem stepCommand_illegal {w0 w1 w2 : Word} (illegal : 9 ≤ (opField w0).toNat ∨ w0 &&& unusedMask (opField w0) ≠ 0#32)
    (s : State) : stepCommand w0 w1 w2 s = .next (illegalCommand s) := by
  unfold stepCommand
  obtain reserved | unused := illegal
  · obtain field | ⟨low, field⟩ | ⟨low, field⟩ := opcode_reserved_cases _ reserved
    · rw [decodeCommand_reserved9 field]; rfl
    · rw [decodeCommand_reservedAB field]; rfl
    · rw [decodeCommand_reservedCF field]; rfl
  · rw [decodeCommand, if_neg unused]

/-- Settles O13: such a record takes the error exit, which between commands writes S.status and S.diag only. -/
theorem illegalRecordsChangeOnlyStatusAndDiag : Obligations.IllegalRecordsChangeOnlyStatusAndDiag := by
  refine ⟨fun s w0 w1 w2 rest quiet inbox illegal => ?_, fun s i quiet reserved => ?_⟩
  · have quiet' : Quiet (s.withInbox rest) := ⟨quiet.run, quiet.phase, quiet.pending, quiet.log, quiet.queued⟩
    rw [step_command inbox (by rw [quiet.run]; rfl), stepCommand_illegal illegal, illegalCommand, errorExit_none_quiet quiet']
    rfl
  · rw [← errorExit_none_quiet quiet]
    obtain ⟨r, rfl⟩ | ⟨r, l, rfl⟩ | ⟨r, l, rfl⟩ := reserved <;> rfl

/-! ## The pseudo-instruction q.li (rule R96) -/

/-- The entry of a word that expects no store. -/
abbrev plainEntry (w : Word) : Entry := { instr := w, addr := 0#32 }

/-- The state after a word that expects no store has been appended (rule R113). -/
def withPlainEntry (w : Word) (s : State) : State :=
  { s with
    que := { s.que with entries := s.que.entries ++ [plainEntry w] }
    input := { s.input with allocs := s.input.allocs.tail } }

theorem atCapacity_eq_false {s : State} {k : Nat} (room : roomFor s (k + 1)) : atCapacity s.cfg s.que.entries.length = false := by
  refine Bool.eq_false_of_not_eq_true fun full => ?_
  have := room _ (atCapacity_eq_true_iff.1 full)
  omega

theorem appendEntry_plain {s : State} {w : Word} {k : Nat} {allocs : List Bool} (room : roomFor s (k + 1))
    (free : s.input.allocs = false :: allocs) : appendEntry (plainEntry w) s = (true, withPlainEntry w s) := by
  rw [appendEntry_ok free (atCapacity_eq_false room), withPlainEntry, free]
  rfl

theorem execQAdd_plain {s : State} {w : Word} {k : Nat} {allocs : List Bool} (noError : s.que.error = false)
    (room : roomFor s (k + 1)) (free : s.input.allocs = false :: allocs) :
    exec (.qAdd w 0#32) s = .next ((withPlainEntry w s).withStatus .ok) := by
  have ok : ¬ s.que.error = true := by rw [noError]; exact Bool.false_ne_true
  have next : exec (.qAdd w 0#32) s = .next (endAppend (appendEntry (plainEntry w) s)) :=
    congrArg Host.Outcome.next ((if_neg ok).trans (if_neg fun h => h.1 rfl))
  rw [next, appendEntry_plain room free]
  rfl

/-- Appending words at once, or each by a q.add, comes to one state but for the status (rules R111, R115). -/
theorem executeAll_qAdd {ws : List Word} {s : State} {allocs : List Bool} (noError : s.que.error = false)
    (room : roomFor s ws.length) (free : s.input.allocs = List.replicate ws.length false ++ allocs) (k : Kind) :
    ∃ t, appendAll (ws.map plainEntry) s = (true, t) ∧
      executeAll (ws.map fun w => .qAdd w 0#32) (s.withStatus k) = some (t.withStatus (if ws = [] then k else .ok)) := by
  induction ws generalizing s k with
  | nil => exact ⟨s, rfl, rfl⟩
  | cons w ws ih =>
    have room' : roomFor (withPlainEntry w s) ws.length := fun n capacity => by
      have first := room n capacity
      simp only [withPlainEntry, List.length_append, List.length_cons, List.length_nil] at first ⊢
      omega
    obtain ⟨t, all, each⟩ := ih (s := withPlainEntry w s) noError room' (congrArg List.tail free) .ok
    refine ⟨t, ?_, ?_⟩
    · rw [List.map_cons, appendAll, appendEntry_plain room free]
      exact all
    · rw [List.map_cons, executeAll, execQAdd_plain (s := s.withStatus k) noError room free, if_neg (List.cons_ne_nil w ws)]
      exact each.trans (by rw [ite_self])

theorem liWords_ne_nil (isa : Isa) (reg : RegNum) (optimize : Bool) (value : Word) : liWords isa reg optimize value ≠ [] := by
  unfold liWords; simp only; split_ifs <;> exact List.cons_ne_nil _ _

/-- Settles O21: both append the words of the load, one after another. -/
theorem loadImmediateIsItsExpansion : Obligations.LoadImmediateIsItsExpansion := by
  intro s reg optimize value allocs noError room free
  rw [expandLi_eq, List.length_map] at room free
  rw [expandLi_eq]
  obtain ⟨t, all, each⟩ := executeAll_qAdd noError room free s.ses.status
  rw [if_neg (liWords_ne_nil _ _ _ _)] at each
  have ok : ¬ s.que.error = true := by rw [noError]; exact Bool.false_ne_true
  refine ⟨t.withStatus .ok, congrArg Host.Outcome.next ((if_neg ok).trans ?_), each⟩
  rw [all]
  rfl

/-! ## Captured control words (rules R85, R143, R152, R173, R260) -/

theorem onNotPending_poll {s : State} {w : Wait} {polls : Nat} (point : s.run.point = .poll w polls) :
    onNotPending s =
      if s.cfg.pollLimit ≤ polls + 1 then raise .desync .noAccess s else s.waitAt (.poll w (polls + 1)) := by
  unfold onNotPending; rw [point]

theorem onNotPending_no_poll {s : State} (point : ∀ w polls, s.run.point ≠ .poll w polls) : onNotPending s = s := by
  unfold onNotPending
  split
  case h_1 w polls e => exact absurd e (point w polls)
  all_goals rfl

theorem onAccess_no_poll {s : State} (point : ∀ w polls, s.run.point ≠ .poll w polls) (isStore : Bool) (c : Word) :
    onAccess isStore c s = s := by
  unfold onAccess
  split
  case h_1 e | h_2 e | h_3 e | h_4 e => exact absurd e (point _ _)
  all_goals rfl

/-- A cycle, or a round of FLUSH's extra loop, goes on to read the address (rules R145, R152). -/
theorem onAccess_observe {s : State} {w : Wait} {polls : Nat} (observes : w = .cycle ∨ ∃ j, w = .extra j)
    (point : s.run.point = .poll w polls) (isStore : Bool) (c : Word) :
    onAccess isStore c s = s.waitAt (.addr w isStore c) := by
  obtain rfl | ⟨j, rfl⟩ := observes <;> unfold onAccess <;> rw [point]

theorem onAccess_flush {s : State} {i polls : Nat} (point : s.run.point = .poll (.flush i) polls) (isStore : Bool) (c : Word) :
    onAccess isStore c s = flushFrom (i + 1) (finish (feed (flushWord s.cfg s.ses.isa i) s)) := by
  unfold onAccess; rw [point]

theorem onAccess_feed {s : State} {k polls : Nat} (point : s.run.point = .poll (.feed k) polls) (isStore : Bool) (c : Word) :
    onAccess isStore c s = feedFrom (k + 1) (finish (feed (entryAt s.run.prog k).instr s)) := by
  unfold onAccess; rw [point]

/-- FEED and FINISH (rules R146, R148). -/
theorem finish_feed (w : Word) (s : State) : finish (feed w s) = s.withPort (portFed s.cfg (laneOf s w) s.port) := by
  rw [finish_eq, feed_eq]
  simp only [List.append_assoc]
  rfl

/-- The address scan of an access is answered (rules R144, R145): OBSERVE ends in the state `observed`. -/
theorem step_awaited {s : State} {w : Wait} {isStore : Bool} {c a : Word} (h : AwaitsAddress s w isStore c a) :
    ∃ t, step s = .next (onAddress w isStore c a t) ∧ noteObserved c a t = observed c a s := by
  obtain ⟨fs, fails⟩ := List.head?_eq_some_iff.1 h.answered
  obtain ⟨ws, words⟩ := List.head?_eq_some_iff.1 h.answer
  have scan := scanAddress_got fails words (by rw [h.queued]; exact fun q hq => (List.not_mem_nil hq).elim)
  rw [step_running (.inl h.inbox), stepRunning_eq_tick, tick, h.point]
  simp only [scan]
  refine ⟨_, rfl, ?_⟩
  rw [observed, words, fails]
  simp [noteObserved, State.withSes, h.queued]

/-- Settles O39: each position of a control scan has its equation of the scan-dispatch. -/
theorem capturedControlWordsAreDispatched : Obligations.CapturedControlWordsAreDispatched := by
  refine ⟨fun s c => ⟨?_, ?_, ?_, ?_, ?_, ?_⟩, ?_⟩
  · intro w polls point more
    exact congrArg Host.Outcome.next ((onNotPending_poll point).trans (if_neg (not_le.2 more)))
  · intro w polls point last
    exact congrArg Host.Outcome.next ((onNotPending_poll point).trans (if_pos last))
  · intro w polls observes point
    exact ⟨congrArg Host.Outcome.next (onAccess_observe observes point false c),
      congrArg Host.Outcome.next (onAccess_observe observes point true c)⟩
  · intro k polls point t
    have next (isStore : Bool) : onAccess isStore c s = t := by
      rw [onAccess_feed point, finish_feed, feedFrom, ← apply_ite (State.waitAt _)]
      rfl
    exact ⟨congrArg Host.Outcome.next (next false), congrArg Host.Outcome.next (next true)⟩
  · intro i polls point u t
    have next (isStore : Bool) : onAccess isStore c s = t := by
      rw [onAccess_flush point, finish_feed, flushFrom, flushExtra, endFlush_eq]
      rfl
    exact ⟨congrArg Host.Outcome.next (next false), congrArg Host.Outcome.next (next true)⟩
  · intro point
    exact ⟨congrArg Host.Outcome.next (onNotPending_no_poll point), congrArg Host.Outcome.next (onAccess_no_poll point false c),
      congrArg Host.Outcome.next (onAccess_no_poll point true c)⟩
  · intro s j isStore c a awaits u v
    obtain ⟨o, next, seen⟩ := step_awaited awaits
    have round : extraRound j c a o =
        if a = u.cfg.textBase then endFlush u else flushExtra (j + 1) (finish (feed (nopFor u.ses.isa) u)) := by
      rw [extraRound, seen]
    rw [next, onAddress, round, finish_feed, flushExtra, endFlush_eq, endFlush_eq]
    rfl

end Sys2Proof.Proofs
end

section
/-! SUPPORT. The commands that build the queue: what Q_ADD and Q_ADD_LI come to, append by append, and the words of a load (rules
R110 to R118). -/

namespace Sys2Proof.Proofs

open Sys2Proof.Machine Sys2Proof.Safety

variable {s : State}

/-! ## Q_INIT -/

/-- Settles O14: the record 0 has opcode 0 and no unused field set, and Q_INIT writes Q and the status. -/
theorem qInitEmptiesTheQueue : Obligations.QInitEmptiesTheQueue := ⟨fun _ _ => rfl, fun _ => rfl⟩

/-! ## What Q_ADD and Q_ADD_LI run on a queue that is not in error -/

theorem exec_qAdd_append {instr addr : Word} (noError : s.que.error = false) (ok : storeOk s.cfg addr) :
    exec (.qAdd instr addr) s = .next (endAppend (appendEntry { instr := instr, addr := addr } s)) := by
  have accepted : ¬ (addr ≠ 0#32 ∧ validStoreAddr s.cfg addr = false) := fun ⟨store, bad⟩ =>
    ok.elim store fun valid => Bool.noConfusion (bad.symm.trans valid)
  exact congrArg Host.Outcome.next ((if_neg (Bool.eq_false_iff.1 noError)).trans (if_neg accepted))

theorem exec_qAdd_refused {instr addr : Word} (noError : s.que.error = false) (store : addr ≠ 0#32)
    (bad : validStoreAddr s.cfg addr = false) :
    exec (.qAdd instr addr) s = .next (errorExit none .illegal .badOperand (s.withQue { s.que with error := true })) :=
  congrArg Host.Outcome.next ((if_neg (Bool.eq_false_iff.1 noError)).trans (if_pos ⟨store, bad⟩))

theorem exec_qAddLi_append (noError : s.que.error = false) (reg : RegNum) (optimize : Bool) (value : Word) :
    exec (.qAddLi reg optimize value) s =
      .next (endAppend (appendAll ((liWords s.ses.isa reg optimize value).map plainEntry) s)) :=
  congrArg Host.Outcome.next (if_neg (Bool.eq_false_iff.1 noError))

/-! ## Appends that succeed -/

/-- Settles O15: the one append succeeds. -/
theorem qAddAppendsItsEntry : Obligations.QAddAppendsItsEntry := by
  intro s instr addr allocs noError ok room free
  rw [exec_qAdd_append noError ok, appendEntry_ok free room, ← noError]
  by_cases plain : addr = 0#32
  · subst plain; rfl
  · rw [if_pos plain, if_neg plain]; rfl

/-- APPEND of word after word, with room for all and no allocation failure (rules R113, R115). -/
theorem appendAll_plain {ws : List Word} {allocs : List Bool} (room : roomFor s ws.length)
    (free : s.input.allocs = List.replicate ws.length false ++ allocs) :
    appendAll (ws.map plainEntry) s =
      (true,
        { s with
          que := { s.que with entries := s.que.entries ++ ws.map plainEntry }
          input := { s.input with allocs := allocs } }) := by
  induction ws generalizing s with
  | nil =>
    have free : s.input.allocs = allocs := free
    rw [← free, List.map_nil, List.append_nil]
    rfl
  | cons w ws ih =>
    have room' : roomFor (withPlainEntry w s) ws.length := fun n capacity => by
      have first := room n capacity
      simp only [withPlainEntry, List.length_append, List.length_cons, List.length_nil] at first ⊢
      omega
    have free' : (withPlainEntry w s).input.allocs = List.replicate ws.length false ++ allocs := congrArg List.tail free
    rw [List.map_cons, appendAll, appendEntry_plain room free]
    refine (ih room' free').trans ?_
    simp only [withPlainEntry, List.append_assoc, List.singleton_append]

/-- The words of a load, by the half of the value that is 0 (rules R115, R118). -/
theorem liWords_eq (isa : Isa) (reg : RegNum) (optimize : Bool) (value : Word) :
    liWords isa reg optimize value =
      if optimize = true ∧ value.extractLsb' 0 16 = 0#16 then [luiFor isa reg (value.extractLsb' 16 16)]
      else if optimize = true ∧ value.extractLsb' 16 16 = 0#16 then [oriFor isa reg 0 (value.extractLsb' 0 16)]
      else [luiFor isa reg (value.extractLsb' 16 16), oriFor isa reg reg (value.extractLsb' 0 16)] := by
  simp only [liWords, Bool.and_eq_true, beq_iff_eq]

theorem liWords_length (isa : Isa) (reg : RegNum) (optimize : Bool) (value : Word) :
    (liWords isa reg optimize value).length =
      if optimize = true ∧ (value.extractLsb' 0 16 = 0#16 ∨ value.extractLsb' 16 16 = 0#16) then 1 else 2 := by
  rw [liWords_eq]
  by_cases optimizes : optimize = true
  · by_cases low : value.extractLsb' 0 16 = 0#16
    · simp [optimizes, low]
    · by_cases high : value.extractLsb' 16 16 = 0#16 <;> simp [optimizes, low, high]
  · simp [optimizes]

/-- Settles O19: every append of the words of the load succeeds. -/
theorem qAddLiAppendsOneOrTwoWords : Obligations.QAddLiAppendsOneOrTwoWords := by
  intro s reg optimize value allocs hi lo words
  have load : words = liWords s.ses.isa reg optimize value := (liWords_eq ..).symm
  refine ⟨load ▸ liWords_length .., fun noError room free => ?_⟩
  rw [exec_qAddLi_append noError, ← load, appendAll_plain room free]
  rfl

/-- Settles O22: each word of the load writes its register. -/
theorem loadImmediateLoadsTheValue : Obligations.LoadImmediateLoadsTheValue := by
  intro s reg r optimize value isa
  obtain ⟨x, run, loaded⟩ := loads_liWords reg optimize value s isa
  refine ⟨s.withTarget x, run, (loaded.gpr r).trans (if_congr ?_ rfl rfl)⟩
  exact and_congr_right fun same => by rw [same]

/-! ## Commands that fail -/

theorem quiet_withQue_withInput (quiet : Quiet s) (q : Queue) (x : Input) : Quiet { s with que := q, input := x } :=
  ⟨quiet.run, quiet.phase, quiet.pending, quiet.log, quiet.queued⟩

/-- Settles O16: the address is checked before the append. -/
theorem qAddRefusesInvalidStoreAddresses : Obligations.QAddRefusesInvalidStoreAddresses := by
  refine ⟨validStoreAddr_iff, fun s instr addr quiet noError store bad => ?_⟩
  rw [exec_qAdd_refused noError store bad]
  exact congrArg Host.Outcome.next (errorExit_none_quiet (quiet_withQue_withInput quiet _ s.input) ..)

/-- APPEND at capacity or with an allocation failure (rule R113). -/
theorem appendEntry_failed {fail : Bool} {allocs : List Bool} (draw : s.input.allocs = fail :: allocs)
    (fails : fail = true ∨ s.cfg.queueCapacity = some s.que.entries.length) (e : Entry) :
    appendEntry e s =
      (false, { s with que := { s.que with error := true }, input := { s.input with allocs := allocs } }) := by
  have stops : (atCapacity s.cfg s.que.entries.length || fail) = true := by
    rw [Bool.or_eq_true, atCapacity_eq_true_iff]
    exact fails.symm
  simp only [appendEntry, drawAlloc_cons draw]
  exact if_pos stops

/-- Nothing is appended after an entry that fails (rule R115). -/
theorem appendAll_cons_failed {e : Entry} {t : State} (failed : appendEntry e s = (false, t)) (es : List Entry) :
    appendAll (e :: es) s = (false, t) := by
  rw [appendAll, failed]

/-- The end of a command that failed to append, between commands (rules R113, R298). -/
theorem endAppend_failed_quiet (quiet : Quiet s) (q : Queue) (x : Input) :
    endAppend (false, { s with que := q, input := x }) =
      { s with que := q, ses := { s.ses with status := .resource, diag := diagnose .alloc s }, input := x } :=
  errorExit_none_quiet (quiet_withQue_withInput quiet q x) ..

/-- Settles O18: the append that fails is the command's first. -/
theorem aFailedAppendSetsTheQueueError : Obligations.AFailedAppendSetsTheQueueError := by
  intro s i fail allocs quiet noError draw appends fails
  rw [← endAppend_failed_quiet quiet]
  obtain ⟨instr, addr, ok, rfl⟩ | ⟨reg, optimize, value, rfl⟩ := appends
  · rw [exec_qAdd_append noError ok, appendEntry_failed draw fails]
  · obtain ⟨w, ws, words⟩ := List.exists_cons_of_ne_nil (liWords_ne_nil s.ses.isa reg optimize value)
    rw [exec_qAddLi_append noError, words, List.map_cons, appendAll_cons_failed (appendEntry_failed draw fails _)]

/-- Settles O20: of the two appends the second fails. -/
theorem qAddLiKeepsItsFirstWordOnFailure : Obligations.QAddLiKeepsItsFirstWordOnFailure := by
  intro s reg optimize value fail allocs quiet noError room draws two fails
  have words : liWords s.ses.isa reg optimize value =
      [luiFor s.ses.isa reg (value.extractLsb' 16 16), oriFor s.ses.isa reg reg (value.extractLsb' 0 16)] := by
    rw [liWords_eq]
    obtain plain | ⟨low, high⟩ := two
    · simp [plain]
    · simp [low, high]
  generalize luiFor s.ses.isa reg (value.extractLsb' 16 16) = first at words ⊢
  have draw : (withPlainEntry first s).input.allocs = fail :: allocs := congrArg List.tail draws
  have full : fail = true ∨ (withPlainEntry first s).cfg.queueCapacity = some (withPlainEntry first s).que.entries.length := by
    simpa [withPlainEntry] using fails
  rw [← endAppend_failed_quiet quiet, exec_qAddLi_append noError, words, List.map_cons, appendAll, appendEntry_plain room draws]
  simp only [List.map_cons, appendAll_cons_failed (appendEntry_failed draw full _)]
  rfl

/-! ## Q.store_count (rules R28, R114) -/

/-- Q.store_count is the number of store-flagged entries. -/
def Counted (q : Queue) : Prop := q.storeCount = countStores q.entries

theorem counted_appendEntry (h : Counted s.que) (e : Entry) : Counted (appendEntry e s).2.que := by
  have drawn : Counted (drawAlloc s).2.que := (portOnly_drawAlloc s).que ▸ h
  unfold appendEntry
  simp only
  split
  case isTrue => exact drawn
  case isFalse =>
    show (if e.addr ≠ 0#32 then _ else _) = countStores (_ ++ [e])
    rw [drawn, countStores, countStores, List.countP_append, List.countP_singleton]
    by_cases plain : e.addr = 0#32 <;> simp [plain]

theorem counted_appendAll (h : Counted s.que) (es : List Entry) : Counted (appendAll es s).2.que := by
  induction es generalizing s with
  | nil => exact h
  | cons e es ih =>
    have first := counted_appendEntry h e
    unfold appendAll
    split
    case h_1 t appended => rw [appended] at first; exact ih first
    case h_2 t failed => rw [failed] at first; exact first

theorem endAppend_que (appended : Bool × State) : (endAppend appended).que = appended.2.que := by
  unfold endAppend; split <;> rfl

/-- Q_INIT and the appends keep the count; no other instruction writes Q (rule R267). -/
theorem counted_exec {i : Instr} {t : State} (h : Counted s.que) (next : exec i s = .next t) : Counted t.que := by
  have kept {u : State} (f : RunFrame s u) : Counted u.que := f.que ▸ h
  cases i with
  | qInit => cases next; exact rfl
  | qAdd instr addr =>
    cases next
    split
    case isTrue => exact h
    case isFalse =>
      split
      case isTrue => exact h
      case isFalse => rw [endAppend_que]; exact counted_appendEntry h _
  | qAddLi reg optimize value =>
    cases next
    split
    case isTrue => exact h
    case isFalse => rw [endAppend_que]; exact counted_appendAll h _
  | exec => cases next; exact kept ((runFrame_startExec s).trans (runFrame_runToEnd _))
  | feedUnchecked => cases next; exact kept ((runFrame_startFeed s).trans (runFrame_runToEnd _))
  | recover first last => cases next; exact kept ((runFrame_startRecover first last s).trans (runFrame_runToEnd _))
  | setSnapshot reg value => cases next; split <;> exact h
  | ctrlNotPending c => cases next; exact kept (runFrame_onNotPending s)
  | ctrlFetch c => cases next; exact kept (runFrame_onAccess false c s)
  | ctrlStore c => cases next; exact kept (runFrame_onAccess true c s)
  | setMode | setIsa | reservedCmd9 | reservedCmdAB | reservedCmdCF | nop | lui | ori | j | b => cases next; exact h

/-- Settles O55: a command keeps the count, and a micro-step and the target leave Q alone. -/
theorem storeCountCountsFlaggedEntries : Obligations.StoreCountCountsFlaggedEntries := by
  refine ⟨fun _ => rfl, fun s t (h : Counted s.que) next => ?_⟩
  show Counted t.que
  rcases step_cases s with ⟨w0, w1, w2, rest, -, -, e⟩ | ⟨w, rest, -, e⟩ | e <;> rw [e] at next
  · unfold stepCommand at next
    split at next
    · exact counted_exec (s := s.withInbox rest) h next
    · cases next; exact h
  · obtain ⟨x, rfl⟩ := stepTarget_next next
    exact h
  · cases next
    exact (runFrame_tick s).que ▸ h

end Sys2Proof.Proofs
end

section
/-! SUPPORT. The batched plan (rule R222): which slots stand in it, in which order, and how many. -/

namespace Sys2Proof.Proofs

open Sys2Proof.Machine Sys2Proof.Safety

/-- How many entries on from its own entry a STORE slot stands (P15, rule R222). -/
def slotLag : ScanLag → Nat
  | .zero => 0
  | .one => 1

abbrev fetchSlot (k : Nat) : Slot := { isStore := false, k := k }

abbrev storeSlot (k : Nat) : Slot := { isStore := true, k := k }

/-- Entry `k` of a program expects a store (rule R84). -/
abbrev flagged (prog : List Entry) (k : Nat) : Bool := (entryAt prog k).addr != 0#32

/-- The STORE slot that stands after the FETCH slot of entry `k`, if one does (rule R222). -/
def storesAfter (lag : Nat) (prog : List Entry) (k : Nat) : List Slot :=
  if lag ≤ k ∧ flagged prog (k - lag) = true then [storeSlot (k - lag)] else []

theorem slotsAt_eq (cfg : Config) (prog : List Entry) (k : Nat) :
    slotsAt cfg prog k = fetchSlot k :: storesAfter (slotLag cfg.storeScanLag) prog k := by
  unfold slotsAt storesAfter
  cases cfg.storeScanLag <;> simp [slotLag]

/-- The slots that the first `n` entries bring. -/
def slotsUpTo (lag : Nat) (prog : List Entry) (n : Nat) : List Slot :=
  (List.range n).flatMap fun k => fetchSlot k :: storesAfter lag prog k

theorem buildSlots_eq (cfg : Config) (prog : List Entry) :
    buildSlots cfg prog = slotsUpTo (slotLag cfg.storeScanLag) prog prog.length :=
  congrArg (List.flatMap · (List.range prog.length)) (funext (slotsAt_eq cfg prog))

section
variable (lag : Nat) (prog : List Entry) (n : Nat)

theorem slotsUpTo_succ : slotsUpTo lag prog (n + 1) = slotsUpTo lag prog n ++ fetchSlot n :: storesAfter lag prog n := by
  simp [slotsUpTo, List.range_succ]

theorem fetches_slotsUpTo :
    ((slotsUpTo lag prog n).filter (fun x => !x.isStore)).map Slot.k = List.range n := by
  induction n with
  | zero => rfl
  | succ n ih =>
    have noFetch : (storesAfter lag prog n).filter (fun x => !x.isStore) = [] := by
      unfold storesAfter; split <;> rfl
    rw [slotsUpTo_succ, List.filter_append, List.map_append, ih, List.range_succ]
    simp [noFetch]

theorem stores_slotsUpTo :
    ((slotsUpTo lag prog n).filter (fun x => x.isStore)).map Slot.k = (List.range (n - lag)).filter (flagged prog) := by
  induction n with
  | zero => rw [Nat.zero_sub]; rfl
  | succ n ih =>
    rw [slotsUpTo_succ, List.filter_append, List.map_append, ih]
    unfold storesAfter
    by_cases within : lag ≤ n
    · rw [Nat.succ_sub within, List.range_succ, List.filter_append]
      by_cases store : flagged prog (n - lag) = true <;> simp [within, store]
    · simp [within, show n + 1 - lag = n - lag by omega]

/-- Each STORE slot stands right after the FETCH slot of the entry `lag` on. -/
theorem store_follows_fetch {i k : Nat} (store : (slotsUpTo lag prog n)[i]? = some (storeSlot k)) :
    ∃ j, i = j + 1 ∧ (slotsUpTo lag prog n)[j]? = some (fetchSlot (k + lag)) := by
  induction n with
  | zero => cases store
  | succ n ih =>
    rw [slotsUpTo_succ] at store ⊢
    by_cases before : i < (slotsUpTo lag prog n).length
    · rw [List.getElem?_append_left before] at store
      obtain ⟨j, rfl, fetch⟩ := ih store
      exact ⟨j, rfl, by rw [List.getElem?_append_left (by omega), fetch]⟩
    · obtain ⟨m, rfl⟩ := Nat.exists_eq_add_of_le (not_lt.1 before)
      rw [List.getElem?_append_right (Nat.le_add_right ..), Nat.add_sub_cancel_left] at store
      unfold storesAfter at store
      cases m with
      | zero => cases store
      | succ m =>
        rw [List.getElem?_cons_succ] at store
        split at store
        case isTrue within =>
          obtain ⟨rfl, rfl⟩ : m = 0 ∧ n - lag = k := by simpa [List.getElem?_singleton] using store
          exact ⟨_, rfl, by simp [Nat.sub_add_cancel within.1]⟩
        case isFalse => cases store

end

/-- The first entries of a program, by their indices. -/
theorem take_eq_map_entryAt {prog : List Entry} {m : Nat} (le : m ≤ prog.length) :
    prog.take m = (List.range m).map (entryAt prog) := by
  refine List.ext_getElem (by simpa using le) fun i hi _ => ?_
  have lt : i < prog.length := by rw [List.length_take] at hi; omega
  simp [entryAt, lt]

theorem countStores_take {prog : List Entry} {m : Nat} (le : m ≤ prog.length) :
    countStores (prog.take m) = ((List.range m).filter (flagged prog)).length := by
  rw [take_eq_map_entryAt le, countStores, List.countP_map, List.countP_eq_length_filter]
  rfl

/-- The plan is its FETCH slots and its STORE slots. -/
theorem length_slotsUpTo (lag : Nat) (prog : List Entry) :
    (slotsUpTo lag prog prog.length).length = prog.length + countStores (prog.take (prog.length - lag)) := by
  have fetches := congrArg List.length (fetches_slotsUpTo lag prog prog.length)
  have stores := congrArg List.length (stores_slotsUpTo lag prog prog.length)
  rw [List.length_map] at fetches stores
  rw [countStores_take (Nat.sub_le ..), ← stores, List.length_eq_length_filter_add (fun x : Slot => x.isStore), fetches,
    List.length_range, Nat.add_comm]

/-- Settles O44: the plan goes through the entries, each bringing its FETCH slot and the STORE slot after it. -/
theorem thePlanHasASlotForEachScan : Obligations.ThePlanHasASlotForEachScan := by
  intro cfg prog plan lag
  have same : lag = slotLag cfg.storeScanLag := by unfold lag; cases cfg.storeScanLag <;> rfl
  rw [same, show plan = _ from buildSlots_eq cfg prog]
  exact ⟨fetches_slotsUpTo .., stores_slotsUpTo .., fun _ _ => store_follows_fetch _ _ _, length_slotsUpTo ..⟩

end Sys2Proof.Proofs
end

section
/-! SUPPORT. The scans a running command waits for, answered or failed, and the runs made of their micro-steps (rules R140 to
R150): lane words, transport failures, the store of a cycle, EXEC where no access comes, and FEED_UNCHECKED. -/

namespace Sys2Proof.Proofs

open Sys2Proof.Machine Sys2Proof.Safety

variable {s t u : State}

/-! ## Lane words (rule R153) -/

theorem getLsbD_encLane (cfg : Config) (isa : Isa) (endian : Endian) (w : Word) {i : Nat} (lt : i < 32) :
    (encLane cfg isa endian w).getLsbD i = w.getLsbD (if swap16 cfg isa endian then (i + 16) % 32 else i) := by
  unfold encLane
  split
  case isTrue =>
    rw [BitVec.getLsbD_append, BitVec.getLsbD_extractLsb', BitVec.getLsbD_extractLsb']
    by_cases low : i < 16
    · simp [low, show (i + 16) % 32 = 16 + i by omega]
    · simp [low, show (i + 16) % 32 = i - 16 by omega, show i - 16 < 16 by omega]
  case isFalse => rfl

/-- Settles O9: the bits of the lane word are those of the word, each half in the other's place; the exchange of places undoes
itself. -/
theorem laneWordsSwapHalves : Obligations.LaneWordsSwapHalves := by
  refine fun cfg isa endian w => ⟨fun i lt => getLsbD_encLane cfg isa endian w lt, BitVec.eq_of_getLsbD_eq fun i lt => ?_⟩
  have place : (if swap16 cfg isa endian then (i + 16) % 32 else i) < 32 := by split <;> omega
  rw [getLsbD_encLane _ _ _ _ lt, getLsbD_encLane _ _ _ _ place]
  congr 1
  split <;> omega

/-! ## Ends of runs that start no recovery -/

/-- The runs of EXEC and FEED_UNCHECKED themselves (rules R170, R260). -/
abbrev ownRun (s : State) : Prop := s.run.ctx = some .execSync ∨ s.run.ctx = some .execBatched ∨ s.run.ctx = some .feed

theorem succeed_own (own : ownRun s) : succeed s = endCommand .ok s := by
  unfold succeed
  obtain e | e | e := own <;> rw [e]

/-- The error exit runs no recovery where the kind asks for none, or nothing is to be restored (rules R263, R298, R300). -/
theorem recovery_ends {k : Kind} (nothing : k.recovers = false ∨ recoveryProgram s.ses.isa s.ses.snap 0 31 = []) :
    (if k.recovers then startRecovery (.exitRecovery k) 0 31 (endCommand k) s else endCommand k s) = endCommand k s := by
  obtain kind | empty := nothing
  · rw [kind]; rfl
  · rw [startRecovery, empty]; exact ite_self _

/-- A failure that starts no recovery ends the command; a batched EXEC is downgraded (rules R231, R298). -/
theorem raise_own (own : ownRun s) {k : Kind} (r : Reason)
    (nothing : k.recovers = false ∨ recoveryProgram s.ses.isa s.ses.snap 0 31 = []) :
    raise k r s =
      failedWith k r
        { s with ses := { s.ses with mode := if s.run.ctx = some .execBatched then .sync else s.ses.mode } } := by
  unfold raise
  obtain e | e | e := own <;> rw [e]
  · exact recovery_ends (s := recordFailure false r s) nothing
  · exact recovery_ends (s := recordFailure true r s) nothing
  · rfl

/-- With no register of the snapshot valid there is nothing to restore (rule R264). -/
theorem recoveryProgram_noSnapshot (noSnap : noSnapshot s) (isa : Isa) (first last : RegNum) :
    recoveryProgram isa s.ses.snap first last = [] := by
  obtain ⟨r8, r9, r10, r15⟩ := noSnap
  simp [recoveryProgram, scratchSet, snapGet, r8, r9, r10, r15]

theorem raise_execSync_noSnapshot (ctx : s.run.ctx = some .execSync) (noSnap : noSnapshot s) (k : Kind) (r : Reason) :
    raise k r s = failedWith k r s := by
  rw [raise_own (.inl ctx) r (.inr (recoveryProgram_noSnapshot noSnap ..)), ctx]
  rfl

/-! ## Transport failures (rules R141, R293) -/

/-- An answer of the scan port changes the port and the inputs only. -/
theorem portOnly_port_input (s : State) (p : Port) (x : Input) : PortOnly s { s with port := p, input := x } :=
  (portOnly_withPort s p).trans (portOnly_withInput _ x)

theorem runPort_transport (failed : s.input.fails.head? = some true) : ∃ t, runPort s = .failed t ∧ PortOnly s t := by
  obtain ⟨fs, fails⟩ := List.head?_eq_some_iff.1 failed
  exact ⟨_, runPort_failed fails, portOnly_port_input ..⟩

theorem execQueued_transport (failed : s.input.fails.head? = some true) : ∃ t, execQueued s = .failed t ∧ PortOnly s t := by
  obtain ⟨t, e, f⟩ := runPort_transport (s := emit .execQueued s) failed
  exact ⟨t, e, (portOnly_emit ..).trans f⟩

theorem scan32_transport (v : Word) (failed : s.input.fails.head? = some true) :
    ∃ t, scan32 v s = .failed t ∧ PortOnly s t := by
  obtain ⟨t, e, f⟩ := runPort_transport (s := emit (.scan32 v) s) failed
  exact ⟨t, by rw [scan32, e], (portOnly_emit ..).trans f⟩

theorem scanControl_transport (polls : Nat) (failed : s.input.fails.head? = some true) :
    ∃ t, scanControl polls s = .failed t ∧ PortOnly s t := by
  unfold scanControl
  split
  · obtain ⟨t, e, f⟩ := scan32_transport (s := setIR s.cfg.ir.control s) s.cfg.ctrlBase failed
    exact ⟨t, e, (portOnly_setIR ..).trans f⟩
  · exact scan32_transport _ failed

theorem scanAddress_transport (failed : s.input.fails.head? = some true) :
    ∃ t, scanAddress s = .failed t ∧ PortOnly s t := by
  obtain ⟨t, e, f⟩ := scan32_transport (s := setIR s.cfg.ir.address s) 0#32 failed
  exact ⟨t, e, (portOnly_setIR ..).trans f⟩

/-- Whatever scan the running command waits for, its failure is raised. -/
theorem tick_transport (running : s.run.point ≠ .idle) (failed : s.input.fails.head? = some true) :
    ∃ t, tick s = raise .transport .transport t ∧ PortOnly s t := by
  unfold tick
  split
  case h_1 idle => exact absurd idle running
  case h_2 polls _ =>
    obtain ⟨t, e, f⟩ := scanControl_transport polls failed
    exact ⟨t, by rw [e], f⟩
  case h_3 =>
    obtain ⟨t, e, f⟩ := scanAddress_transport failed
    exact ⟨t, by rw [e], f⟩
  all_goals
    obtain ⟨t, e, f⟩ := execQueued_transport failed
    exact ⟨t, by rw [e], f⟩

theorem step_tick (inbox : s.inbox = []) : step s = .next (tick s) := by
  rw [step_running (.inl inbox), stepRunning_eq_tick]

/-- Settles O40: the failure is raised before any reaction to an answer, and its kind asks for no recovery. -/
theorem transportFailuresEndTheCommand : Obligations.TransportFailuresEndTheCommand := by
  intro s inbox running failed own
  obtain ⟨t, next, f⟩ := tick_transport running failed
  have noRecovery : Kind.transport.recovers = false := by decide
  have ended := raise_own (s := t) (by rw [ownRun, f.run]; exact own) .transport (.inl noRecovery)
  refine ⟨_, (step_tick inbox).trans (congrArg _ (next.trans ended)), rfl, rfl, rfl, rfl, ?_, f.out, f.que, f.target⟩
  simp only [failedWith, diagnose, f.ses, f.exe, f.run]

/-! ## An accepted store and DRAIN (rules R176, R185, R186) -/

theorem resolvePending_none (noRead : s.exe.pending = none) : resolvePending s = s := by
  unfold resolvePending; rw [noRead]

theorem resolvePending_some {d : Deferred} (pending : s.exe.pending = some d) :
    resolvePending s =
      { s with
        out := s.out.write (outIndex s.cfg d.addr) (capturedWord s d.handle), exe := { s.exe with pending := none } } := by
  unfold resolvePending; rw [pending]; rfl

theorem outResolved_none (noRead : s.exe.pending = none) : outResolved s = s.out := by
  unfold outResolved; rw [noRead]

theorem outResolved_some {d : Deferred} (pending : s.exe.pending = some d) :
    outResolved s = s.out.write (outIndex s.cfg d.addr) (capturedWord s d.handle) := by
  unfold outResolved; rw [pending]

/-- A deferred read that may be pending is resolved (rules R174, R186). -/
theorem resolvePending_eq (s : State) :
    resolvePending s = { s with out := outResolved s, exe := { s.exe with pending := none } } := by
  cases pending : s.exe.pending with
  | none =>
    have same : { s.exe with pending := none } = s.exe := by rw [← pending]
    rw [resolvePending_none pending, outResolved_none pending, same]
  | some d => rw [resolvePending_some pending, outResolved_some pending]

/-- A store that passes the three checks is captured and deferred (rule R176). -/
theorem storeCycle_accepted {a : Word} (expected : s.exe.storePending ≠ 0) (low : s.cfg.paramOutBase.toNat ≤ a.toNat)
    (high : a.toNat ≤ s.exe.maxStoreAddr.toNat) (mult : a.toNat % 4 = 0) :
    storeCycle a s =
      finishExchange
        ((capture s).withExe
          { s.exe with
            pending := some { addr := a, handle := s.port.nextHandle }, storePending := s.exe.storePending - 1 }) := by
  have al : ¬ aligned a = false := by rw [(aligned_iff a).2 mult]; decide
  unfold storeCycle
  rw [if_neg expected, if_neg (by omega), if_neg al]
  rfl

/-- The exchange of a cycle ends with FINISH, and the run waits: for DRAIN after the last store of the pass, else for the next
access (rule R185). -/
theorem finishExchange_waits (noRestart : s.exe.phase ≠ .restarting) :
    finishExchange s =
      (finish s).waitAt (if s.exe.pass = true ∧ s.exe.storePending = 0 then .drain else .poll .cycle 0) := by
  have exe : (finish s).exe = s.exe := (portOnly_finish s).exe
  unfold finishExchange loopTop
  simp only [exe, if_neg noRestart, Bool.and_eq_true, beq_iff_eq]
  split <;> rfl

/-- ExecQueued of DRAIN runs the deferred CAPTURE (rules R147, R186). -/
theorem execQueued_capture {h : Nat} {v : Word} {words : List Word} {fails : List Bool}
    (queued : s.port.queued = [.keep h, .discard]) (draws : s.input.fails = false :: fails)
    (answers : s.input.words = v :: words) :
    execQueued s =
      .got ()
        { s with
          port := { s.port with queued := [], captured := (h, v) :: s.port.captured, trace := .execQueued :: s.port.trace }
          input := { s.input with words := words, fails := fails } } := by
  have draws : (emit .execQueued s).input.fails = false :: fails := draws
  have queued : (emit .execQueued s).port.queued = [.keep h, .discard] := queued
  rw [execQueued, runPort_got draws, queued, runScans, drawWord_cons (by exact answers)]
  rfl

/-- DRAIN resolves what is deferred, and the run of EXEC ends OK (rules R186, R187). -/
theorem drained_execSync (ctx : s.run.ctx = some .execSync) :
    drained s =
      { s with
        ses := { s.ses with status := .ok }
        exe := { s.exe with phase := .idle, pending := none }
        out := outResolved s
        run := .reset } := by
  have ctx : ((resolvePending s).withPhase .passed).run.ctx = some .execSync := by
    rw [State.withPhase_run, resolvePending_run, ctx]
  rw [drained, succeed_own (.inl ctx), endCommand_eq, resolvePending_eq]
  rfl

theorem step_drain (inbox : s.inbox = []) (point : s.run.point = .drain) (ran : execQueued s = .got () t) :
    step s = .next (drained t) := by
  rw [step_tick inbox, tick, point]
  simp only [ran]

/-- Settles O36: the checks pass, and CAPTURE and FINISH are queued; DRAIN resolves what is deferred and ends the run. -/
theorem anAcceptedStoreIsDeferred : Obligations.AnAcceptedStoreIsDeferred := by
  refine ⟨?_, ?_, ?_⟩
  · intro s c a awaits noRestart expected low high mult u h
    obtain ⟨o, next, seen⟩ := step_awaited awaits
    have start : resolvePending (noteObserved c a o) = u := by rw [seen, resolvePending_eq]; rfl
    have last : s.exe.storePending - 1 = 0 ↔ s.exe.storePending = 1 := by omega
    rw [next, onAddress, cycle, start, if_pos rfl, storeCycle_accepted (s := u) expected low high mult,
      finishExchange_waits (by exact noRestart), finish_eq, capture_eq]
    simp only [u, cycleStart, observed, State.withExe, State.waitAt, State.withRun, awaits.queued, last]
    rfl
  · intro s d v words fails inbox point ctx pending queued draws answers
    rw [step_drain inbox point (execQueued_capture queued draws answers), drained_execSync (by exact ctx),
      outResolved_some (by exact pending)]
    simp only [capturedWord, List.lookup_cons_self, Option.getD_some]
  · intro s fails inbox point ctx pending queued draws
    have discards : ∀ q ∈ s.port.queued, q = .discard := by rw [queued]; exact fun q hq => (List.not_mem_nil hq).elim
    rw [step_drain inbox point (execQueued_got draws discards), drained_execSync (by exact ctx),
      outResolved_none (by exact pending)]
    simp only [pending, queued]

end Sys2Proof.Proofs
end

section
/-! SUPPORT. Runs as chains of micro-steps, each the reaction to an answer that is laid down: EXEC where no access comes, and
FEED_UNCHECKED (rules R143, R260, R294). -/

namespace Sys2Proof.Proofs

open Sys2Proof.Machine Sys2Proof.Safety

variable {s t u : State} {w : Wait} {c : Word} {polls : Nat} {words : List Word} {fails : List Bool}

/-! ## Chains of micro-steps -/

/-- Micro-steps lead from one state to another (rule R6). -/
abbrev Ticks : State → State → Prop := Relation.ReflTransGen fun s t => tick s = t

theorem ticks_runToEnd (s : State) : Ticks s (runToEnd s) :=
  runToEnd_induct (P := Ticks s) (fun _ h => h.tail rfl) .refl

theorem Ticks.eq_of_idle (h : Ticks s t) (idle : s.run.point = .idle) : t = s := by
  induction h with
  | refl => rfl
  | tail _ next same => rw [← next, same, tick_idle idle]

/-- A command's run to its end goes where any chain of micro-steps does that reaches an end. -/
theorem runToEnd_eq_of_ticks (h : Ticks s t) (idle : t.run.point = .idle) (ends : (runToEnd s).run.point = .idle) :
    runToEnd s = t := by
  have functional : Relator.RightUnique fun s t : State => tick s = t := fun _ _ _ h k => h.symm.trans k
  obtain on | back := (ticks_runToEnd s).total_of_right_unique functional h
  · exact (Ticks.eq_of_idle on ends).symm
  · exact Ticks.eq_of_idle back idle

/-- EXEC in synchronous mode ends where the micro-steps of its run lead (rules R170, R266). -/
theorem exec_sync_of_ticks (noError : s.que.error = false) (mode : s.ses.mode = .sync) (ne : s.que.entries ≠ [])
    (h : Ticks (startSync .execSync s.que.entries s) t) (idle : t.run.point = .idle) : exec .exec s = .next t := by
  have start : startExec s = startSync .execSync s.que.entries s := by
    unfold startExec; rw [noError, if_neg Bool.false_ne_true, if_neg ne, mode]
  rw [← runToEnd_eq_of_ticks h idle (startSync_ends rfl ne s), ← start]
  rfl

/-- FEED_UNCHECKED about to feed the first entry of its queue (rule R260). -/
def feeding (s : State) : State :=
  (s.withPhase .executing).withRun { ctx := some .feed, prog := s.que.entries, point := .idle }

/-- FEED_UNCHECKED ends where the micro-steps of its run lead (rules R260, R266). -/
theorem exec_feed_of_ticks (quiet : Quiet s) (noError : s.que.error = false) (ne : s.que.entries ≠ [])
    (h : Ticks (feedFrom 0 (feeding s)) t) (idle : t.run.point = .idle) : exec .feedUnchecked s = .next t := by
  have start : startFeed s = feedFrom 0 (feeding s) := by
    unfold startFeed; rw [noError, if_neg Bool.false_ne_true, if_neg ne]; rfl
  have ends := startFeed_ends (s := s) (by rw [quiet.run]; rfl)
  rw [start] at ends
  rw [← runToEnd_eq_of_ticks h idle ends, ← start]
  rfl

/-! ## Answered scans -/

/-- Every scan that is queued has its captured value discarded (rules R146, R148). -/
abbrev queuesDiscards (s : State) : Prop := ∀ q ∈ s.port.queued, q = .discard

theorem queuesDiscards_of_nil (h : s.port.queued = []) : queuesDiscards s := fun q hq => by rw [h] at hq; cases hq

/-- The scan port issued `ops`, oldest first, with no capture queued; `words` and `fails` are left of the answers laid down
(rules R140, R142). -/
structure Scanned (s : State) (ops : List PortOp) (words : List Word) (fails : List Bool) (t : State) : Prop
    extends PortOnly s t where
  queued : queuesDiscards t
  trace : t.port.trace.reverse = s.port.trace.reverse ++ ops
  words : t.input.words = words
  fails : t.input.fails = fails

theorem Scanned.trans {ops ops' : List PortOp} {words' : List Word} {fails' : List Bool} (h : Scanned s ops words fails t)
    (k : Scanned t ops' words' fails' u) : Scanned s (ops ++ ops') words' fails' u :=
  { k with
    toPortOnly := h.toPortOnly.trans k.toPortOnly
    trace := by rw [k.trace, h.trace, List.append_assoc] }

theorem Scanned.waitAt {ops : List PortOp} (h : Scanned s ops words fails t) (p : Point) :
    Scanned (s.waitAt p) ops words fails (t.waitAt p) :=
  { h with run := by rw [State.waitAt_run, State.waitAt_run, h.run] }

/-- A scan with nothing queued after it. -/
theorem scanned_port_input {p : Port} {x : Input} {ops : List PortOp} (queued : p.queued = [])
    (trace : p.trace = ops.reverse ++ s.port.trace) (left : x.words = words) (draws : x.fails = fails) :
    Scanned s ops words fails { s with port := p, input := x } where
  toPortOnly := portOnly_port_input ..
  queued := queuesDiscards_of_nil queued
  trace := by simp [trace]
  words := left
  fails := draws

/-- FEED and FINISH (rules R146, R148). -/
theorem scanned_finish_feed (queued : queuesDiscards s) (instr : Word) :
    Scanned s
      [.setIR s.cfg.ir.data, .scan32Q (laneOf s instr), .setIR s.cfg.ir.control, .scan32Q (finWord s.cfg)]
      s.input.words s.input.fails (finish (feed instr s)) := by
  rw [finish_feed]
  refine ⟨portOnly_withPort .., fun q hq => ?_, by simp [portFed], rfl, rfl⟩
  exact (List.mem_append.1 hq).elim (queued q) fun hq => by simpa using hq

/-- What a poll of WAIT_PRACC issues: the selection goes before the first (rule R143). -/
def pollOps (cfg : Config) (polls : Nat) : List PortOp :=
  if polls = 0 then [.setIR cfg.ir.control, .scan32 cfg.ctrlBase] else [.scan32 cfg.ctrlBase]

/-- The control scan that a WAIT_PRACC waits for is answered by `c` (rule R143). -/
theorem tick_poll (point : s.run.point = .poll w polls) (queued : queuesDiscards s) (answer : s.input.words = c :: words)
    (draw : s.input.fails = false :: fails) :
    ∃ t, tick s = onControl c t ∧ Scanned s (pollOps s.cfg polls) words fails t ∧ t.port.queued = [] := by
  rw [tick, point, pollOps]
  by_cases first : polls = 0
  · subst first
    simp only [scanControl_first draw answer queued, if_true]
    exact ⟨_, rfl, scanned_port_input rfl rfl rfl rfl, rfl⟩
  · simp only [scanControl_again first draw answer queued, if_neg first]
    exact ⟨_, rfl, scanned_port_input rfl rfl rfl rfl, rfl⟩

/-- A control word of no class but NOT_PENDING is polled again (rules R85, R143). -/
theorem onControl_notPending (h : ¬ isPending s.cfg c) : onControl c s = onNotPending s := by
  rw [onControl, (classify_eq_notPending_iff ..).2 (Bool.eq_false_of_not_eq_true h)]

/-- A control word of a pending access is that of a store or a fetch (rule R85). -/
theorem onControl_pending (h : isPending s.cfg c) : ∃ isStore, onControl c s = onAccess isStore c s := by
  unfold onControl classify
  rw [if_pos h]
  by_cases store : c.getLsbD s.cfg.prnwBit = true
  · exact ⟨true, by rw [if_pos store]⟩
  · exact ⟨false, by rw [if_neg store]⟩

/-- POLL_LIMIT is 1 at least (rule R9). -/
theorem pollLimit_ne_zero (cfg : Config) : cfg.pollLimit ≠ 0 := by
  have sound := cfg.sound
  unfold Params.problem? at sound
  split_ifs at sound
  assumption

/-! ## EXEC where no access comes (rules R143, R294) -/

/-- A WAIT_PRACC that gets POLL_LIMIT control words without a pending access, those of the polls already done among them, fails
after the last. -/
theorem ticks_noAccess {controls : List Word} (point : s.run.point = .poll w polls) (queued : queuesDiscards s)
    (ne : controls ≠ []) (count : polls + controls.length = s.cfg.pollLimit)
    (noAccess : ∀ c ∈ controls, ¬ isPending s.cfg c) (answers : s.input.words = controls ++ words)
    (draws : s.input.fails = List.replicate controls.length false ++ fails) :
    ∃ p ops u, Ticks s (raise .desync .noAccess u) ∧ Scanned (s.waitAt p) ops words fails u ∧ u.port.queued = [] := by
  induction controls generalizing s polls with
  | nil => exact absurd rfl ne
  | cons c cs ih =>
    obtain ⟨t, next, scanned, empty⟩ := tick_poll point queued answers draws
    have limit : t.cfg.pollLimit = polls + 1 + cs.length := by rw [scanned.cfg, ← count, List.length_cons]; omega
    have noAccess' : ∀ d ∈ c :: cs, ¬ isPending t.cfg d := by rw [scanned.cfg]; exact noAccess
    rw [onControl_notPending (noAccess' c List.mem_cons_self), onNotPending_poll (scanned.run ▸ point)] at next
    by_cases last : cs = []
    · subst last
      rw [if_pos (by rw [limit]; exact le_rfl)] at next
      have here : s.waitAt (.poll w polls) = s := by rw [← point]; rfl
      exact ⟨_, _, t, .single next, here.symm ▸ scanned, empty⟩
    · have more : ¬ t.cfg.pollLimit ≤ polls + 1 := by have := List.length_pos_iff.2 last; omega
      rw [if_neg more] at next
      obtain ⟨p, ops, u, rest, scanned', empty⟩ := ih (s := t.waitAt (.poll w (polls + 1))) rfl scanned.queued last
        limit.symm (fun d hd => noAccess' d (List.mem_cons_of_mem _ hd)) scanned.words scanned.fails
      exact ⟨p, _, u, rest.head next, (scanned.waitAt p).trans scanned', empty⟩

/-- Settles O45: the first access of the run is waited for in vain, and there is nothing to restore. -/
theorem execFailsWhereNoAccessComes : Obligations.ExecFailsWhereNoAccessComes := by
  intro s controls words fails quiet noSnap noError mode ne count noAccess answers draws
  have polled : controls ≠ [] := fun e => pollLimit_ne_zero s.cfg (by rw [← count, e]; rfl)
  obtain ⟨p, ops, u, run, scanned, empty⟩ := ticks_noAccess (s := startSync .execSync s.que.entries s) rfl
    (queuesDiscards_of_nil quiet.queued) polled ((Nat.zero_add _).trans count) noAccess answers (by rw [count]; exact draws)
  have ctx : u.run.ctx = some .execSync := by rw [scanned.run]; rfl
  have ses : u.ses = s.ses := scanned.ses
  have phase : u.exe.phase = .executing := by rw [scanned.exe]; rfl
  rw [raise_execSync_noSnapshot ctx (by rw [noSnapshot, ses]; exact noSnap)] at run
  exact ⟨_, exec_sync_of_ticks noError mode ne run rfl, ⟨rfl, rfl, rfl, rfl, empty⟩, rfl, rfl, phase, scanned.out,
    by rw [← ses]; rfl, scanned.words, scanned.fails⟩

/-! ## FEED_UNCHECKED (rule R260) -/

/-- FEED_UNCHECKED feeds an entry to whatever access is pending. -/
theorem tick_feed {k : Nat} {e : Entry} (point : s.run.point = .poll (.feed k) 0) (entry : s.run.prog[k]? = some e)
    (queued : queuesDiscards s) (pending : isPending s.cfg c) (answer : s.input.words = c :: words)
    (draw : s.input.fails = false :: fails) :
    ∃ t, tick s = feedFrom (k + 1) t ∧ Scanned s (uncheckedOps s.cfg (laneOf s e.instr)) words fails t := by
  obtain ⟨t, next, scanned, -⟩ := tick_poll point queued answer draw
  obtain ⟨isStore, access⟩ := onControl_pending (s := t) (c := c) (by rw [scanned.cfg]; exact pending)
  have instr : entryAt t.run.prog k = e := by
    rw [scanned.run, entryAt, List.getD_eq_getElem?_getD, entry]; rfl
  have fed := scanned.trans (scanned_finish_feed scanned.queued e.instr)
  rw [access, onAccess_feed (scanned.run ▸ point), instr] at next
  rw [scanned.words, scanned.fails, laneOf, scanned.cfg, scanned.ses] at fed
  exact ⟨_, next, fed⟩

/-- FEED_UNCHECKED from entry `k` on, on a target that always has an access pending. -/
theorem ticks_feedFrom {k : Nat} {rest : List Entry} {controls : List Word} (left : s.run.prog.drop k = rest)
    (queued : queuesDiscards s) (count : controls.length = rest.length) (pending : ∀ c ∈ controls, isPending s.cfg c)
    (answers : s.input.words = controls ++ words) (draws : s.input.fails = List.replicate controls.length false ++ fails) :
    ∃ u, Ticks (feedFrom k s) u ∧
      Scanned (s.waitAt .feedEnd) (rest.flatMap fun e => uncheckedOps s.cfg (laneOf s e.instr)) words fails u := by
  induction rest generalizing k s controls with
  | nil =>
    cases List.length_eq_zero_iff.1 count
    have stop : feedFrom k s = s.waitAt .feedEnd := if_neg (by simpa using left)
    exact ⟨_, stop ▸ .refl, .refl _, queued, by simp, answers, draws⟩
  | cons e rest ih =>
    obtain ⟨c, cs, rfl⟩ := List.exists_cons_of_length_eq_add_one count
    have entry : s.run.prog[k]? = some e := by rw [← List.head?_drop, left]; rfl
    have later : s.run.prog.drop (k + 1) = rest := by rw [← List.tail_drop, left, List.tail_cons]
    have go : feedFrom k s = s.waitAt (.poll (.feed k) 0) := if_pos (List.getElem?_eq_some_iff.1 entry).1
    obtain ⟨t, next, scanned⟩ := tick_feed (s := s.waitAt (.poll (.feed k) 0)) rfl entry queued
      (pending c List.mem_cons_self) answers draws
    obtain ⟨u, run, scanned'⟩ := ih (k := k + 1) (s := t) (controls := cs) (by rw [scanned.run]; exact later) scanned.queued
      (Nat.succ.inj count) (fun d hd => by rw [scanned.cfg]; exact pending d (List.mem_cons_of_mem _ hd)) scanned.words
      scanned.fails
    simp only [laneOf, scanned.cfg, scanned.ses] at scanned'
    exact ⟨u, go ▸ run.head next, (scanned.waitAt .feedEnd).trans scanned'⟩

/-- The ExecQueued that ends FEED_UNCHECKED is answered. -/
theorem tick_feedEnd (point : s.run.point = .feedEnd) (queued : queuesDiscards s) (draw : s.input.fails = false :: fails) :
    ∃ t, tick s = succeed t ∧ Scanned s [.execQueued] s.input.words fails t ∧ t.port.queued = [] := by
  rw [tick, point]
  simp only [execQueued_got draw queued]
  exact ⟨_, rfl, scanned_port_input rfl rfl rfl rfl, rfl⟩

/-- Settles O30: the entries are fed one by one, and one ExecQueued ends the run. -/
theorem feedUncheckedFeedsEveryEntry : Obligations.FeedUncheckedFeedsEveryEntry := by
  intro s controls words fails quiet noError ne count pending answers draws
  rw [List.replicate_succ', List.append_assoc] at draws
  obtain ⟨u, run, scanned⟩ := ticks_feedFrom (s := feeding s) (k := 0) rfl (queuesDiscards_of_nil quiet.queued) count
    pending answers draws
  obtain ⟨t, last, ended, empty⟩ := tick_feedEnd (by rw [scanned.run]; rfl) scanned.queued scanned.fails
  have all := scanned.trans ended
  have exe : (endCommand .ok t).exe = s.exe := by
    show { t.exe with phase := .idle } = s.exe
    rw [all.exe, ← quiet.phase]
    rfl
  rw [succeed_own (.inr (.inr (by rw [all.run]; rfl)))] at last
  refine ⟨_, exec_feed_of_ticks quiet noError ne (run.tail last) rfl,
    ⟨rfl, rfl, by rw [exe]; exact quiet.pending, all.log.trans quiet.log, empty⟩, ?_, exe, all.que, all.out, all.target,
    all.words.trans scanned.words, all.fails, all.trace.trans (List.append_assoc ..).symm⟩
  show { t.ses with status := .ok } = _
  rw [all.ses]
  rfl

end Sys2Proof.Proofs
end

section
/-! SUPPORT. The restart bound (rules R152, R173, R177 to R180, R190): an attempt fetches in order up to a mismatch, FLUSH
follows while there is budget, and the last mismatch fails. -/

namespace Sys2Proof.Proofs

open Sys2Proof.Machine Sys2Proof.Safety

variable {s t u : State} {c a : Word} {words : List Word} {fails : List Bool} {answers : List Word} {r k : Nat}

/-! ## The parts of an observed fetch -/

/-- The address scan that an OBSERVE waits for is answered by `a` (rule R144). -/
theorem tick_addr {w : Wait} {isStore : Bool} (point : s.run.point = .addr w isStore c) (queued : queuesDiscards s)
    (answer : s.input.words = a :: words) (draw : s.input.fails = false :: fails) :
    ∃ t, tick s = onAddress w isStore c a t ∧ Scanned s [.setIR s.cfg.ir.address, .scan32 0#32] words fails t ∧
      t.port.queued = [] := by
  rw [tick, point]
  simp only [scanAddress_got draw answer queued]
  exact ⟨_, rfl, scanned_port_input rfl rfl rfl rfl, rfl⟩

theorem onControl_fetch (h : isFetch s.cfg c) : onControl c s = onAccess false c s := by
  have h : classify s.cfg.praccBit s.cfg.prnwBit c = .fetch := h
  rw [onControl, h]

/-- With no read deferred, a fetch while executing is step S3e (rules R174, R178). -/
theorem cycle_fetch (noRead : s.exe.pending = none) (phase : s.exe.phase = .executing) :
    cycle false c a s = fetchExecuting a (noteObserved c a s) := by
  have resolved : resolvePending (noteObserved c a s) = noteObserved c a s := resolvePending_none noRead
  rw [cycle, resolved, if_neg Bool.false_ne_true, if_pos (by exact phase)]

/-- An entry that is not the last is fed, and the next access is waited for (rule R180). -/
theorem feedEntry_more (phase : s.exe.phase = .executing) (noPass : s.exe.pass = false)
    (more : s.exe.codeCount + 1 < s.run.prog.length) :
    ∃ maxStore expected, feedEntry s =
      ((finish (feed (entryAt s.run.prog s.exe.codeCount).instr s)).withExe
        { s.exe with maxStoreAddr := maxStore, storePending := expected, codeCount := s.exe.codeCount + 1 }).waitAt
        (.poll .cycle 0) := by
  have last : ¬ s.exe.codeCount + 1 = s.run.prog.length := more.ne
  obtain ⟨maxStore, expected, booked⟩ : ∃ maxStore expected, feedEntry s =
      finishExchange ((feed (entryAt s.run.prog s.exe.codeCount).instr s).withExe
        { s.exe with
          maxStoreAddr := maxStore
          storePending := expected
          codeCount := s.exe.codeCount + 1
          phase := if s.exe.codeCount + 1 = s.run.prog.length then .finalCheck else s.exe.phase }) := ⟨_, _, rfl⟩
  refine ⟨maxStore, expected, ?_⟩
  rw [booked, if_neg last, finishExchange_waits (by rw [State.withExe_exe, phase]; decide),
    if_neg (by rw [State.withExe_exe, noPass]; exact fun h => Bool.noConfusion h.1)]
  rfl

/-- A mismatch that is no resync makes a restart due (rule R179). -/
theorem fetchMismatch_due (noResync : ¬ resyncs a s = true) (window : inRestartWindow s.cfg s.exe.codeCount = true) :
    fetchMismatch a s =
      loopTop (s.withExe { s.exe with lastMismatch := some (mismatchAt s.cfg a), phase := .restarting }) := by
  rw [fetchMismatch, if_neg noResync, if_pos window]

/-! ## Where an EXEC that goes astray stands -/

/-- `t` is reached from `s` by an EXEC that has restarted `r` times, spent no resync and accepted no store; `answers` are left
before `words`, with no transport failure before `fails`. -/
structure Straying (s : State) (words : List Word) (fails : List Bool) (r : Nat) (answers : List Word) (t : State) : Prop where
  frame : RunFrame s t
  out : t.out = s.out
  ctx : t.run.ctx = some .execSync
  prog : t.run.prog = s.que.entries
  noRead : t.exe.pending = none
  noResync : t.exe.resyncUsed = false
  restarts : t.exe.restartCount = r
  queued : queuesDiscards t
  words : t.input.words = answers ++ words
  fails : t.input.fails = List.replicate answers.length false ++ fails

/-- The next cycle of an attempt that has fetched `k` entries is to observe. -/
structure Attempting (s : State) (words : List Word) (fails : List Bool) (r k : Nat) (answers : List Word) (t : State) : Prop
    extends Straying s words fails r answers t where
  point : t.run.point = .poll .cycle 0
  phase : t.exe.phase = .executing
  noPass : t.exe.pass = false
  count : t.exe.codeCount = k

/-- An attempt has ended in its mismatch, and a restart is due (rule R179). -/
structure RestartDue (s : State) (words : List Word) (fails : List Bool) (r : Nat) (c : Word) (x : Attempt)
    (answers : List Word) (t : State) : Prop extends Straying s words fails r answers t where
  phase : t.exe.phase = .restarting
  mismatch : t.exe.lastMismatch = some (mismatchAt s.cfg x.stray)
  count : t.exe.codeCount = x.fetched
  lastCtrl : t.ses.lastCtrl = c
  lastAddr : t.ses.lastAddr = x.stray
  empty : t.port.queued = []

theorem Straying.scanned {ops : List PortOp} {left : List Word} (h : Straying s words fails r answers t)
    (k : Scanned t ops (left ++ words) (List.replicate left.length false ++ fails) u) : Straying s words fails r left u where
  frame := h.frame.trans k.toPortOnly.runFrame
  out := k.out.trans h.out
  ctx := k.run ▸ h.ctx
  prog := k.run ▸ h.prog
  noRead := k.exe ▸ h.noRead
  noResync := k.exe ▸ h.noResync
  restarts := k.exe ▸ h.restarts
  queued := k.queued
  words := k.words
  fails := k.fails

theorem Straying.noteObserved (h : Straying s words fails r answers t) :
    Straying s words fails r answers (noteObserved c a t) :=
  { h with frame := h.frame.trans (runFrame_noteObserved ..) }

theorem Straying.waitAt (h : Straying s words fails r answers t) (p : Point) :
    Straying s words fails r answers (t.waitAt p) :=
  { h with frame := h.frame.trans (runFrame_waitAt ..) }

theorem Straying.fed (h : Straying s words fails r answers t) (instr : Word) :
    Straying s words fails r answers (finish (feed instr t)) := by
  have fed := scanned_finish_feed h.queued instr
  rw [h.words, h.fails] at fed
  exact h.scanned fed

/-- A WAIT_PRACC gets the control word of a fetch. -/
theorem Straying.tick_poll (h : Straying s words fails r (c :: answers) t) (fetch : isFetch s.cfg c) {w : Wait}
    (point : t.run.point = .poll w 0) :
    ∃ u, tick t = onAccess false c u ∧ Straying s words fails r answers u ∧ u.exe = t.exe ∧ u.run = t.run := by
  obtain ⟨u, next, scanned, -⟩ := Proofs.tick_poll point h.queued h.words h.fails
  have fetch : isFetch u.cfg c := by rw [isFetch, scanned.cfg, h.frame.cfg]; exact fetch
  exact ⟨u, next.trans (onControl_fetch fetch), h.scanned scanned, scanned.exe, scanned.run⟩

/-- A fetch is observed (rule R145). -/
theorem Straying.ticks_observe (h : Straying s words fails r (c :: a :: answers) t) (fetch : isFetch s.cfg c) {w : Wait}
    (observes : w = .cycle ∨ ∃ j, w = .extra j) (point : t.run.point = .poll w 0) :
    ∃ u, Ticks t (onAddress w false c a u) ∧ Straying s words fails r answers u ∧ u.exe = t.exe ∧
      u.port.queued = [] := by
  obtain ⟨v, polled, strays, exe, run⟩ := h.tick_poll fetch point
  rw [onAccess_observe observes (run ▸ point)] at polled
  have strays := strays.waitAt (.addr w false c)
  obtain ⟨u, next, scanned, empty⟩ := tick_addr rfl strays.queued strays.words strays.fails
  exact ⟨u, .head polled (.single next), strays.scanned scanned, scanned.exe.trans exe, empty⟩

/-! ## An attempt (rules R178 to R180) -/

theorem Attempting.ticks_fetch (h : Attempting s words fails r k (c :: textAddr s.cfg k :: answers) t)
    (fetch : isFetch s.cfg c) (more : k + 1 < s.que.entries.length) :
    ∃ u, Ticks t u ∧ Attempting s words fails r (k + 1) answers u := by
  obtain ⟨v, run, strays, exe, -⟩ := h.ticks_observe fetch (.inl rfl) h.point
  have phase : v.exe.phase = .executing := exe ▸ h.phase
  have count : v.exe.codeCount = k := exe ▸ h.count
  have seen := strays.noteObserved (c := c) (a := textAddr s.cfg k)
  obtain ⟨m, n, fed⟩ := feedEntry_more (s := noteObserved c (textAddr s.cfg k) v) phase (exe ▸ h.noPass)
    (by rw [seen.prog]; exact count ▸ more)
  rw [onAddress, cycle_fetch strays.noRead phase, fetchExecuting, if_pos (by rw [seen.frame.cfg]; exact congrArg _ count.symm),
    fed] at run
  refine ⟨_, run, ?_⟩
  have strays := seen.fed (entryAt v.run.prog v.exe.codeCount).instr
  exact
    { strays with
      frame := (strays.frame.trans (runFrame_withExe ..)).trans (runFrame_waitAt ..)
      point := rfl
      phase := phase
      noPass := exe ▸ h.noPass
      count := congrArg (· + 1) count }

/-- The entries before the mismatch are fetched and fed in order. -/
theorem Attempting.ticks_fetches (fetch : isFetch s.cfg c) {n : Nat} (more : n < s.que.entries.length)
    (h : Attempting s words fails r 0 (((List.range n).flatMap fun k => [c, textAddr s.cfg k]) ++ answers) t) :
    ∃ u, Ticks t u ∧ Attempting s words fails r n answers u := by
  induction n generalizing answers with
  | zero => exact ⟨t, .refl, h⟩
  | succ n ih =>
    rw [List.range_succ, List.flatMap_append, List.append_assoc] at h
    obtain ⟨u, run, attempting⟩ := ih (by omega) h
    obtain ⟨v, next, attempting⟩ := attempting.ticks_fetch fetch more
    exact ⟨v, run.trans next, attempting⟩

theorem Attempting.ticks_stray {x : Attempt} (h : Attempting s words fails r x.fetched (c :: x.stray :: answers) t)
    (fetch : isFetch s.cfg c) (window : inRestartWindow s.cfg x.fetched = true) (stray : x.stray ≠ textAddr s.cfg x.fetched)
    (noResync : r = 0 → ¬ (x.fetched = 1 ∧ x.stray = s.cfg.textBase)) :
    ∃ u, Ticks t (loopTop u) ∧ RestartDue s words fails r c x answers u := by
  obtain ⟨v, run, strays, exe, empty⟩ := h.ticks_observe fetch (.inl rfl) h.point
  have phase : v.exe.phase = .executing := exe ▸ h.phase
  have count : v.exe.codeCount = x.fetched := exe ▸ h.count
  have seen := strays.noteObserved (c := c) (a := x.stray)
  have elsewhere : ¬ x.stray = textAddr v.cfg v.exe.codeCount := by rw [strays.frame.cfg, count]; exact stray
  have resyncs : ¬ resyncs x.stray (noteObserved c x.stray v) = true := by
    simp only [resyncs, Bool.and_eq_true, beq_iff_eq]
    rintro ⟨⟨⟨one, back⟩, first⟩, -⟩
    have back : x.stray = s.cfg.textBase := by rw [← strays.frame.cfg]; exact back
    exact noResync (seen.restarts.symm.trans first) ⟨count.symm.trans one, back⟩
  have react : onAddress .cycle false c x.stray v = _ := (cycle_fetch strays.noRead phase).trans
    ((if_neg elsewhere).trans (fetchMismatch_due resyncs (by rw [seen.frame.cfg]; exact count ▸ window)))
  rw [react] at run
  exact ⟨_, run,
    { seen with
      frame := seen.frame.trans (runFrame_withExe ..)
      phase := rfl
      mismatch := by rw [← strays.frame.cfg]; rfl
      count := count
      lastCtrl := rfl
      lastAddr := rfl
      empty := empty }⟩

theorem Attempting.ticks_attempt {x : Attempt} (h : Attempting s words fails r 0 (attemptWords s.cfg c x ++ answers) t)
    (fetch : isFetch s.cfg c)
    (strays : x.fetched < s.que.entries.length ∧ inRestartWindow s.cfg x.fetched = true ∧
      x.stray ≠ textAddr s.cfg x.fetched)
    (noResync : r = 0 → ¬ (x.fetched = 1 ∧ x.stray = s.cfg.textBase)) :
    ∃ u, Ticks t (loopTop u) ∧ RestartDue s words fails r c x answers u := by
  obtain ⟨more, window, stray⟩ := strays
  rw [attemptWords, List.append_assoc] at h
  obtain ⟨v, run, attempting⟩ := h.ticks_fetches fetch more
  obtain ⟨u, next, due⟩ := attempting.ticks_stray fetch window stray noResync
  exact ⟨u, run.trans next, due⟩

/-! ## FLUSH (rules R152, R173) -/

theorem Straying.ticks_flushFrom (fetch : isFetch s.cfg c) {i n : Nat} (left : i + n = s.cfg.flushSeq.length)
    (h : Straying s words fails r (List.replicate n c ++ answers) t) :
    ∃ u, Ticks (flushFrom i t) (flushExtra 0 u) ∧ Straying s words fails r answers u := by
  induction n generalizing i t with
  | zero => exact ⟨t, by rw [flushFrom, if_neg (by rw [h.frame.cfg]; omega)], h⟩
  | succ n ih =>
    have wait : flushFrom i t = t.waitAt (.poll (.flush i) 0) := if_pos (by rw [h.frame.cfg]; omega)
    obtain ⟨v, next, strays, -, run⟩ := (h.waitAt (.poll (.flush i) 0)).tick_poll fetch rfl
    rw [onAccess_flush (by rw [run]; rfl)] at next
    obtain ⟨u, rest, strays⟩ := ih (i := i + 1) (by omega) (strays.fed _)
    exact ⟨u, wait ▸ rest.head next, strays⟩

/-- The rounds of the extra loop: one that sees TEXT_BASE is the last. -/
theorem Straying.ticks_flushExtra (fetch : isFetch s.cfg c) {j n : Nat} (left : j + n = s.cfg.flushExtraMax)
    (h : Straying s words fails r
      ((List.replicate (if a = s.cfg.textBase then min 1 n else n) [c, a]).flatten ++ answers) t) :
    ∃ u, Ticks (flushExtra j t) (endFlush u) ∧ Straying s words fails r answers u := by
  induction n generalizing j t with
  | zero =>
    rw [Nat.min_zero, ite_self] at h
    exact ⟨t, by rw [flushExtra, if_neg (by rw [h.frame.cfg]; omega)], h⟩
  | succ n ih =>
    have wait : flushExtra j t = t.waitAt (.poll (.extra j) 0) := if_pos (by rw [h.frame.cfg]; omega)
    rw [wait]
    by_cases back : a = s.cfg.textBase
    · rw [if_pos back, show min 1 (n + 1) = 1 by omega] at h
      obtain ⟨v, run, strays, -⟩ := (h.waitAt (.poll (.extra j) 0)).ticks_observe fetch (.inr ⟨j, rfl⟩) rfl
      have ends : onAddress (.extra j) false c a v = endFlush (Machine.noteObserved c a v) :=
        if_pos (by rw [strays.noteObserved.frame.cfg]; exact back)
      exact ⟨_, ends ▸ run, strays.noteObserved⟩
    · rw [if_neg back] at h ih
      obtain ⟨v, run, strays, -⟩ := (h.waitAt (.poll (.extra j) 0)).ticks_observe fetch (.inr ⟨j, rfl⟩) rfl
      have goes : onAddress (.extra j) false c a v = flushExtra (j + 1)
          (finish (feed (nopFor (Machine.noteObserved c a v).ses.isa) (Machine.noteObserved c a v))) :=
        if_neg (by rw [strays.noteObserved.frame.cfg]; exact back)
      obtain ⟨u, rest, strays⟩ := ih (j := j + 1) (by omega) (strays.noteObserved.fed _)
      exact ⟨u, (goes ▸ run).trans rest, strays⟩

/-- FLUSH ends in a new attempt (rule R177). -/
theorem Straying.endFlush (h : Straying s words fails r answers t) :
    Attempting s words fails (r + 1) 0 answers (endFlush t) :=
  { h with
    frame := h.frame.trans (runFrame_endFlush t)
    restarts := congrArg (· + 1) h.restarts
    point := rfl
    phase := rfl
    noPass := rfl
    count := rfl }

theorem RestartDue.ticks_flush {x : Attempt} (h : RestartDue s words fails r c x (flushAnswers s.cfg c x ++ answers) t)
    (fetch : isFetch s.cfg c) (budget : r < s.cfg.restartLimit) :
    ∃ u, Ticks (loopTop t) u ∧ Attempting s words fails (r + 1) 0 answers u := by
  have flush : loopTop t = flushFrom 0 t := by
    rw [loopTop, if_pos h.phase, if_neg (by rw [h.frame.cfg, h.restarts]; omega)]
  have strays := h.toStraying
  rw [flushAnswers, List.append_assoc] at strays
  obtain ⟨v, run, strays⟩ := strays.ticks_flushFrom fetch (Nat.zero_add _)
  obtain ⟨u, rest, strays⟩ := strays.ticks_flushExtra fetch (Nat.zero_add _)
  exact ⟨_, flush ▸ run.trans rest, strays.endFlush⟩

/-- With the budget spent the mismatch fails (rule R173). -/
theorem RestartDue.loopTop_exhausted {x : Attempt} (h : RestartDue s words fails s.cfg.restartLimit c x answers t) :
    loopTop t = raise (mismatchAt s.cfg x.stray).kind .restartExhausted t := by
  rw [loopTop, if_pos h.phase, if_pos (by rw [h.frame.cfg, h.restarts]), h.mismatch]
  rfl

/-! ## The restarts (rule R190) -/

/-- Attempt after attempt, each followed by FLUSH, until the budget is spent. -/
theorem Attempting.ticks_restarts {attempts : List Attempt} {final : Attempt} (fetch : isFetch s.cfg c)
    (strays : ∀ x ∈ attempts ++ [final], x.fetched < s.que.entries.length ∧ inRestartWindow s.cfg x.fetched = true ∧
      x.stray ≠ textAddr s.cfg x.fetched)
    (noResync : r = 0 → ∀ x, (attempts ++ [final]).head? = some x → ¬ (x.fetched = 1 ∧ x.stray = s.cfg.textBase))
    (budget : r + attempts.length = s.cfg.restartLimit)
    (h : Attempting s words fails r 0
      ((attempts.flatMap fun x => attemptWords s.cfg c x ++ flushAnswers s.cfg c x) ++ attemptWords s.cfg c final) t) :
    ∃ u, Ticks t (raise (mismatchAt s.cfg final.stray).kind .restartExhausted u) ∧
      RestartDue s words fails s.cfg.restartLimit c final [] u := by
  induction attempts generalizing r t with
  | nil =>
    cases budget
    rw [List.flatMap_nil, List.nil_append, ← List.append_nil (attemptWords ..)] at h
    obtain ⟨u, run, due⟩ := h.ticks_attempt fetch (strays final List.mem_cons_self) fun first => noResync first final rfl
    exact ⟨u, due.loopTop_exhausted ▸ run, due⟩
  | cons x rest ih =>
    have budget : r + 1 + rest.length = s.cfg.restartLimit := by rw [← budget, List.length_cons]; omega
    rw [List.flatMap_cons, List.append_assoc, List.append_assoc] at h
    obtain ⟨v, run, due⟩ := h.ticks_attempt fetch (strays x List.mem_cons_self) fun first => noResync first x rfl
    obtain ⟨w, flushed, attempting⟩ := due.ticks_flush fetch (by omega)
    obtain ⟨u, later, due⟩ := ih (fun y hy => strays y (List.mem_cons_of_mem _ hy)) (fun e => absurd e (Nat.succ_ne_zero r))
      budget attempting
    exact ⟨u, (run.trans flushed).trans later, due⟩

theorem attempting_startSync {answers : List Word} (quiet : Quiet s) (laid : s.input.words = answers ++ words)
    (draws : s.input.fails = List.replicate answers.length false ++ fails) :
    Attempting s words fails 0 0 answers (startSync .execSync s.que.entries s) where
  frame := runFrame_startSync ..
  out := rfl
  ctx := rfl
  prog := rfl
  noRead := rfl
  noResync := rfl
  restarts := rfl
  queued := queuesDiscards_of_nil quiet.queued
  words := laid
  fails := draws
  point := rfl
  phase := rfl
  noPass := rfl
  count := rfl

/-- Settles O46: by induction on the attempts, each of which spends one restart of the budget. -/
theorem restartsAreBoundedByTheLimit : Obligations.RestartsAreBoundedByTheLimit := by
  intro s c attempts final words fails answers quiet noSnap noError mode fetch count strays first laid draws
  have ne : s.que.entries ≠ [] := fun e => by
    have := (strays final (List.mem_append_right _ List.mem_cons_self)).1
    rw [e] at this
    cases this
  obtain ⟨u, run, due⟩ := (attempting_startSync quiet laid draws).ticks_restarts fetch strays (fun _ => first)
    ((Nat.zero_add _).trans count)
  rw [raise_execSync_noSnapshot due.ctx (by rw [noSnapshot, due.frame.snap]; exact noSnap)] at run
  refine ⟨_, exec_sync_of_ticks noError mode ne run rfl, ⟨rfl, rfl, rfl, rfl, due.empty⟩, ?_, rfl, due.phase,
    due.restarts, due.count, due.lastCtrl, due.lastAddr, due.out, due.words, due.fails⟩
  show (mismatchAt s.cfg final.stray).kind = _
  rw [mismatchAt, apply_ite Mismatch.kind]
  rfl

end Sys2Proof.Proofs
end

section
/-! SUPPORT. One cycle of the synchronous executor (rules R171 to R185): the access observed, then what a fetch and a store come
to; and the commands on an empty queue (rules R170, R260). -/

namespace Sys2Proof.Proofs

open Sys2Proof.Machine Sys2Proof.Safety

variable {s : State} {isStore : Bool} {c a : Word}

/-! ## An empty queue -/

/-- Settles O31: neither command starts a run. -/
theorem anEmptyQueueRunsToOk : Obligations.AnEmptyQueueRunsToOk := by
  intro s i quiet noError empty which
  have noError : ¬ s.que.error = true := Bool.eq_false_iff.1 noError
  have ends : runToEnd (s.withStatus .ok) = s.withStatus .ok := runToEnd_eq_self (by rw [State.withStatus_run, quiet.run]; rfl)
  have exec : startExec s = s.withStatus .ok := (if_neg noError).trans (if_pos empty)
  have feed : startFeed s = s.withStatus .ok := (if_neg noError).trans (if_pos empty)
  obtain rfl | rfl := which
  · exact congrArg Host.Outcome.next ((congrArg runToEnd exec).trans ends)
  · exact congrArg Host.Outcome.next ((congrArg runToEnd feed).trans ends)

/-! ## The access of a cycle -/

/-- Steps S3 and S4 on an access, once steps S1 and S2 are done (rules R171, R175). -/
def takeAccess (isStore : Bool) (a : Word) (u : State) : State :=
  if isStore then storeCycle a u
  else if u.exe.phase = .executing then fetchExecuting a u
  else fetchFinal a u

theorem cycle_eq (isStore : Bool) (c a : Word) (s : State) :
    cycle isStore c a s = takeAccess isStore a (resolvePending (noteObserved c a s)) := rfl

theorem takeAccess_executing (phase : s.exe.phase = .executing) : takeAccess false a s = fetchExecuting a s := if_pos phase

theorem takeAccess_final (phase : s.exe.phase = .finalCheck) : takeAccess false a s = fetchFinal a s := by
  have notExecuting : ¬ s.exe.phase = .executing := by rw [phase]; decide
  exact if_neg notExecuting

/-- The address scan of a cycle is answered by `a` (rules R144, R171). -/
theorem tick_cycle {words : List Word} {fails : List Bool} (point : s.run.point = .addr .cycle isStore c)
    (queued : s.port.queued = []) (draws : s.input.fails = false :: fails) (answers : s.input.words = a :: words) :
    tick s = takeAccess isStore a (cycleStart c a s) := by
  rw [tick, point]
  simp only [scanAddress_got draws answers (queuesDiscards_of_nil queued)]
  rw [onAddress, cycle_eq, resolvePending_eq, cycleStart, observed, draws, answers, List.tail_cons, List.tail_cons, ← queued]
  rfl

theorem step_cycle (h : AwaitsAddress s .cycle isStore c a) : step s = .next (takeAccess isStore a (cycleStart c a s)) := by
  obtain ⟨fails, draws⟩ := List.head?_eq_some_iff.1 h.answered
  obtain ⟨words, answers⟩ := List.head?_eq_some_iff.1 h.answer
  rw [step_tick h.inbox, tick_cycle h.point h.queued draws answers]

/-! ## A fetch while executing (rules R178 to R180) -/

/-- FEED and FINISH of a cycle that does not end the pass: the next access is to be observed (rules R146, R148, R185). -/
theorem finishExchange_feed {x : Executor} (noRestart : x.phase ≠ .restarting)
    (more : ¬ (x.pass = true ∧ x.storePending = 0)) (w : Word) :
    finishExchange ((feed w s).withExe x) =
      { s with exe := x, port := portFed s.cfg (laneOf s w) s.port, run := { s.run with point := .poll .cycle 0 } } := by
  rw [finishExchange_waits (by exact noRestart), if_neg (by exact more)]
  exact congrArg (fun u : State => (u.withExe x).waitAt (.poll .cycle 0)) (finish_feed w s)

/-- The bookkeeping of an entry of a program of so many (rule R180). -/
def bookEntry (e : Entry) (length : Nat) (x : Executor) : Executor :=
  { x with
    maxStoreAddr := if e.addr = 0#32 then x.maxStoreAddr else maxAddr x.maxStoreAddr e.addr
    storePending := if e.addr = 0#32 then x.storePending else x.storePending + 1
    codeCount := x.codeCount + 1
    phase := if x.codeCount + 1 = length then .finalCheck else .executing }

/-- An entry is booked, fed and finished (rule R180). -/
theorem feedEntry_eq {e : Entry} (entry : s.run.prog[s.exe.codeCount]? = some e) (phase : s.exe.phase = .executing)
    (noPass : s.exe.pass = false) :
    feedEntry s =
      { s with
        exe := bookEntry e s.run.prog.length s.exe
        port := portFed s.cfg (laneOf s e.instr) s.port
        run := { s.run with point := .poll .cycle 0 } } := by
  have found : entryAt s.run.prog s.exe.codeCount = e := by rw [entryAt, List.getD_eq_getElem?_getD, entry]; rfl
  have plain {α : Type} (x y : α) : (if (e.addr != 0#32) = true then x else y) = if e.addr = 0#32 then y else x := by
    simp only [bne_iff_ne, ne_eq, ite_not]
  rw [← finishExchange_feed (by dsimp only [bookEntry]; split <;> decide)
    (by rw [bookEntry, noPass]; exact fun h => Bool.noConfusion h.1), bookEntry, ← plain, ← plain, ← phase, ← found]
  rfl

/-- Settles O32: the fetch is that of the entry. -/
theorem aMatchingFetchFeedsItsEntry : Obligations.AMatchingFetchFeedsItsEntry := by
  intro s c a e awaits phase noPass entry at_entry u
  have matching : fetchExecuting a u = feedEntry u := if_pos at_entry
  rw [step_cycle awaits, takeAccess_executing (s := u) phase, matching, feedEntry_eq (s := u) entry phase noPass]
  rfl

/-- A fetch at another address than the entry's (rules R178, R179). -/
theorem fetchExecuting_mismatch (elsewhere : a ≠ textAddr s.cfg s.exe.codeCount) : fetchExecuting a s = fetchMismatch a s :=
  if_neg elsewhere

theorem resyncs_iff :
    resyncs a s = true ↔
      s.exe.codeCount = 1 ∧ a = s.cfg.textBase ∧ s.exe.restartCount = 0 ∧ s.exe.resyncUsed = false := by
  simp only [resyncs, Bool.and_eq_true, beq_iff_eq, Bool.not_eq_true', and_assoc]

/-- With no restart due the loop goes on to observe (rule R171). -/
theorem loopTop_observes (noRestart : s.exe.phase ≠ .restarting) : loopTop s = s.waitAt (.poll .cycle 0) := if_neg noRestart

/-- Settles O33: TEXT_BASE is not where the entry after the first is fetched, and the mismatch has the resync's form. -/
theorem theResyncResetsTheAttempt : Obligations.TheResyncResetsTheAttempt := by
  intro s c a awaits phase count back first unused u
  have elsewhere : a ≠ textAddr u.cfg u.exe.codeCount := by
    rw [show textAddr u.cfg u.exe.codeCount = s.cfg.textBase + 4#32 from congrArg (textAddr s.cfg) count, back]
    bv_omega
  have taken : fetchMismatch a u = resync u := if_pos (resyncs_iff.2 ⟨count, back, first, unused⟩)
  have budget : (if s.cfg.resyncConsumesBudget then s.exe.restartCount + 1 else s.exe.restartCount) =
      if s.cfg.resyncConsumesBudget then 1 else 0 := by rw [first]
  have executing : u.exe.phase = .executing := phase
  rw [step_cycle awaits, takeAccess_executing executing, fetchExecuting_mismatch elsewhere, taken, resync,
    loopTop_observes (by exact Phase.noConfusion), ← budget]
  dsimp only
  rw [executing]
  rfl

/-- Settles O34: the mismatch is no resync, and a restart that it makes due is weighed against the budget at once. -/
theorem aFetchMismatchRestartsOrFails : Obligations.AFetchMismatchRestartsOrFails := by
  intro s c a awaits phase elsewhere noResync u kind due
  have noResync : ¬ resyncs a u = true := fun h => noResync (resyncs_iff.1 h)
  rw [step_cycle awaits, takeAccess_executing (s := u) phase, fetchExecuting_mismatch (by exact elsewhere)]
  congr 1
  by_cases window : inRestartWindow s.cfg s.exe.codeCount = true
  · rw [fetchMismatch_due noResync window, if_neg (by rw [window]; decide)]
    exact if_pos rfl
  · rw [if_pos (Bool.eq_false_of_not_eq_true window), fetchMismatch, if_neg noResync, if_neg (by exact window)]
    rfl

/-! ## A store (rule R176) -/

/-- Settles O35: each check comes into play where those before it pass. -/
theorem badStoresFailInOrder : Obligations.BadStoresFailInOrder := by
  intro s c a awaits u
  rw [step_cycle awaits]
  refine ⟨fun none => ?_, fun some range => ?_, fun some low high odd => ?_⟩ <;> congr 1
  · exact if_pos none
  · exact (if_neg some).trans (if_pos range)
  · have misaligned : aligned a = false := Bool.eq_false_of_not_eq_true fun al => odd ((aligned_iff a).1 al)
    exact (if_neg some).trans ((if_neg (not_or.2 ⟨not_lt.2 low, not_lt.2 high⟩)).trans (if_pos misaligned))

/-! ## A fetch in the final check (rules R181 to R184) -/

/-- A return with no store pending: DRAIN is to follow (rule R181). -/
theorem fetchFinal_drains (noPass : s.exe.pass = false) (none : s.exe.storePending = 0) :
    fetchFinal s.cfg.textBase s = s.waitAt .drain := by
  rw [fetchFinal, if_pos rfl, if_neg (by rw [noPass]; decide), if_pos none]

/-- A fetch within the padding limits is fed NOP (rules R183, R184). -/
theorem padFetch_feeds (phase : s.exe.phase = .finalCheck) (left : ¬ (s.exe.pass = true ∧ s.exe.storePending = 0))
    (before : s.exe.pass = false → s.exe.codeCount - s.run.prog.length ≤ s.cfg.preReturnPadLimit)
    (after : s.exe.pass = true → s.exe.codeCount ≤ s.cfg.postReturnPadLimit) :
    padFetch s =
      { s with
        exe := { s.exe with codeCount := s.exe.codeCount + 1 }
        port := portFed s.cfg (laneOf s (nopFor s.ses.isa)) s.port
        run := { s.run with point := .poll .cycle 0 } } := by
  rw [padFetch, if_neg fun h => (before h.1).not_gt h.2, if_neg fun h => (after h.1).not_gt h.2]
  have noRestart : s.exe.phase ≠ .restarting := by rw [phase]; decide
  exact finishExchange_feed (x := { s.exe with codeCount := s.exe.codeCount + 1 }) noRestart left _

/-- Settles O37: the pass and the stores pending decide; the first return of a run with stores pending starts a new count. -/
theorem returnsToTextInTheFinalCheck : Obligations.ReturnsToTextInTheFinalCheck := by
  intro s c awaits phase u
  rw [step_cycle awaits, takeAccess_final (s := u) phase]
  refine ⟨fun pass => ?_, fun noPass none => ?_, fun noPass some => ?_⟩ <;> congr 1
  · exact (if_pos rfl).trans (if_pos pass)
  · exact fetchFinal_drains (s := u) noPass none
  · have passed : fetchFinal s.cfg.textBase u = padFetch (u.withExe { u.exe with pass := true, codeCount := 0 }) :=
      (if_pos rfl).trans ((if_neg (Bool.eq_false_iff.1 noPass)).trans (if_neg some))
    exact passed.trans (padFetch_feeds phase (fun h => some h.2) (fun h => Bool.noConfusion h) fun _ => Nat.zero_le _)

/-- Settles O38: the address is checked before the limits, of which the pass names the one that counts. -/
theorem paddingInTheFinalCheck : Obligations.PaddingInTheFinalCheck := by
  intro s c a awaits phase away u expected
  have pads (here : a = expected) : fetchFinal a u = padFetch u := (if_neg away).trans (if_neg (not_not.2 here))
  rw [step_cycle awaits, takeAccess_final (s := u) phase]
  refine ⟨fun elsewhere => ?_, fun here noPass tooMany => ?_, fun here pass tooMany => ?_,
    fun here left before after => ?_⟩ <;> congr 1
  · exact (if_neg away).trans (if_pos elsewhere)
  · exact (pads here).trans (if_pos ⟨noPass, tooMany⟩)
  · exact (pads here).trans ((if_neg fun h => Bool.noConfusion (h.1.symm.trans pass)).trans (if_pos ⟨pass, tooMany⟩))
  · rw [pads here, padFetch_feeds (s := u) phase left before after]
    rfl

end Sys2Proof.Proofs
end

section
/-! SUPPORT. Synchronous runs on a target that follows the plan of the program: EXEC, and RECOVER (rules R171 to R187, R263). -/

namespace Sys2Proof.Proofs

open Sys2Proof.Machine Sys2Proof.Safety

variable {s t u : State} {c a : Word} {out : Memory} {words : List Word} {fails : List Bool}

/-! ## OBSERVE with a read that may be deferred (rules R145, R147, R174) -/

/-- `out` is OUT with what is deferred, and `words` are the answers after it: nothing is deferred; or a CAPTURE is queued, and its
datum is the next answer. -/
inductive Reads (s : State) (out : Memory) (words : List Word) : Prop where
  | nothing (noRead : s.exe.pending = none) (queued : queuesDiscards s) (same : s.out = out) (answers : s.input.words = words)
  | deferred {d : Deferred} {v : Word} (pending : s.exe.pending = some d) (queued : s.port.queued = [.keep d.handle, .discard])
    (stores : s.out.write (outIndex s.cfg d.addr) v = out) (answers : s.input.words = v :: words)

/-- A blocking scan runs the CAPTURE queued before it (rule R140). -/
theorem scan32_capture {h : Nat} {v w : Word} (queued : s.port.queued = [.keep h, .discard])
    (draws : s.input.fails = false :: fails) (answers : s.input.words = v :: w :: words) (x : Word) :
    scan32 x s =
      .got w
        { s with
          port := { s.port with queued := [], captured := (h, v) :: s.port.captured, trace := .scan32 x :: s.port.trace }
          input := { s.input with words := words, fails := fails } } := by
  have draws : (emit (.scan32 x) s).input.fails = false :: fails := draws
  have queued : (emit (.scan32 x) s).port.queued = [.keep h, .discard] := queued
  rw [scan32, runPort_got draws, queued, runScans, drawWord_cons (by exact answers)]
  dsimp only [runScans]
  rw [drawWord_cons (by rfl)]
  rfl

/-- The control scan of a cycle brings in the datum of a deferred read, before its own answer. -/
theorem scanControl_reads (reads : Reads s out (c :: words)) (draws : s.input.fails = false :: fails) :
    ∃ p, scanControl 0 s = .got c { s with port := p, input := { s.input with words := words, fails := fails } } ∧
      p.queued = [] ∧ p.trace = .scan32 s.cfg.ctrlBase :: .setIR s.cfg.ir.control :: s.port.trace ∧
      outResolved { s with port := p } = out := by
  cases reads with
  | nothing noRead queued same answers =>
    exact ⟨_, scanControl_first draws answers queued, rfl, rfl, (outResolved_none noRead).trans same⟩
  | deferred pending queued stores answers =>
    refine ⟨_, scan32_capture (s := setIR s.cfg.ir.control s) queued draws answers s.cfg.ctrlBase, rfl, rfl, ?_⟩
    rw [outResolved_some (by exact pending), ← stores]
    simp only [capturedWord, List.lookup_cons_self, Option.getD_some]

/-- What OBSERVE issues, oldest first (rules R143, R144). -/
def observeOps (cfg : Config) : List PortOp :=
  [.setIR cfg.ir.control, .scan32 cfg.ctrlBase, .setIR cfg.ir.address, .scan32 0#32]

/-- `u` is `s` after steps S1 and S2 of a cycle that observed the access (c, a); `words` and `fails` are left of the answers laid
down (rules R171, R174). -/
structure Observed (s : State) (c a : Word) (out : Memory) (words : List Word) (fails : List Bool) (u : State) : Prop where
  cfg : u.cfg = s.cfg
  ses : u.ses = { s.ses with lastCtrl := c, lastAddr := a }
  que : u.que = s.que
  log : u.log = s.log
  ctx : u.run.ctx = s.run.ctx
  prog : u.run.prog = s.run.prog
  exe : u.exe = { s.exe with pending := none }
  out : u.out = out
  queued : u.port.queued = []
  trace : u.port.trace.reverse = s.port.trace.reverse ++ observeOps s.cfg
  words : u.input.words = words
  fails : u.input.fails = fails

/-- A control word of an access, by its class (rule R85). -/
theorem onControl_access {isStore : Bool}
    (access : classify s.cfg.praccBit s.cfg.prnwBit c = if isStore then .store else .fetch) :
    onControl c s = onAccess isStore c s := by
  rw [onControl, access]
  cases isStore <;> rfl

/-- An access is observed at the first poll, and a deferred read resolved. -/
theorem ticks_cycle {isStore : Bool} (point : s.run.point = .poll .cycle 0) (reads : Reads s out (c :: a :: words))
    (draws : s.input.fails = false :: false :: fails)
    (access : classify s.cfg.praccBit s.cfg.prnwBit c = if isStore then .store else .fetch) :
    ∃ u, Ticks s (takeAccess isStore a u) ∧ Observed s c a out words fails u := by
  obtain ⟨p, scanned, queued, trace, resolved⟩ := scanControl_reads reads draws
  have polled : tick s =
      onControl c { s with port := p, input := { s.input with words := a :: words, fails := false :: fails } } := by
    rw [tick, point]
    simp only [scanned]
  rw [onControl_access (by exact access), onAccess_observe (.inl rfl) (by exact point)] at polled
  refine ⟨_, .head polled (.single (tick_cycle rfl queued rfl rfl)), ?_⟩
  exact
    { cfg := rfl
      ses := rfl
      que := rfl
      log := rfl
      ctx := rfl
      prog := rfl
      exe := rfl
      out := resolved
      queued := queued
      trace := by simp [cycleStart, observed, trace, observeOps, State.waitAt, State.withRun]
      words := rfl
      fails := rfl }

/-! ## How far a run by plan has come -/

/-- The counters of a run that has fed `n` entries of its program and expects `owed` stores (rules R31 to R36, R180). -/
structure Progress (prog : List Entry) (n owed : Nat) (e : Executor) : Prop where
  phase : e.phase = if n = prog.length then .finalCheck else .executing
  count : e.codeCount = n
  expected : e.storePending = owed
  highest : ∀ k < n, (entryAt prog k).addr.toNat ≤ e.maxStoreAddr.toNat
  noPass : e.pass = false
  restarts : e.restartCount = 0

section
variable {prog : List Entry} {n owed : Nat} {e : Executor}

theorem Progress.noRestart (h : Progress prog n owed e) : e.phase ≠ .restarting := by
  rw [h.phase]; split <;> decide

theorem Progress.withPending (h : Progress prog n owed e) (d : Option Deferred) : Progress prog n owed { e with pending := d } :=
  { h with }

theorem Progress.stored (h : Progress prog n owed e) (d : Option Deferred) :
    Progress prog n (owed - 1) { e with pending := d, storePending := e.storePending - 1 } :=
  { h with expected := congrArg (· - 1) h.expected }

theorem toNat_maxAddr (a b : Word) : (maxAddr a b).toNat = max a.toNat b.toNat := by
  unfold maxAddr; split <;> omega

theorem toNat_le_bookEntry_maxStoreAddr (x : Entry) (length : Nat) (e : Executor) :
    e.maxStoreAddr.toNat ≤ (bookEntry x length e).maxStoreAddr.toNat ∧
      x.addr.toNat ≤ (bookEntry x length e).maxStoreAddr.toNat := by
  by_cases plain : x.addr = 0#32
  · simp [bookEntry, plain]
  · simp [bookEntry, plain, toNat_maxAddr]

theorem Progress.fed (h : Progress prog n owed e) :
    Progress prog (n + 1) (owed + if flagged prog n = true then 1 else 0) (bookEntry (entryAt prog n) prog.length e) where
  phase := by rw [bookEntry, h.count]
  count := congrArg (· + 1) h.count
  expected := by
    by_cases plain : (entryAt prog n).addr = 0#32 <;> simp [bookEntry, plain, h.expected]
  highest := fun k lt => by
    obtain ⟨before, this⟩ := toNat_le_bookEntry_maxStoreAddr (entryAt prog n) prog.length e
    obtain earlier | rfl := Nat.lt_succ_iff_lt_or_eq.1 lt
    · exact (h.highest k earlier).trans before
    · exact this
  noPass := h.noPass
  restarts := h.restarts

end

/-- What a run by plan leaves of the session, Q and LOG. -/
structure SyncFrame (s t : State) : Prop where
  cfg : t.cfg = s.cfg
  que : t.que = s.que
  log : t.log = s.log
  ses : t.ses = { s.ses with lastCtrl := t.ses.lastCtrl, lastAddr := t.ses.lastAddr }

theorem SyncFrame.observed (h : SyncFrame s t) (k : Observed t c a out words fails u) : SyncFrame s u where
  cfg := k.cfg.trans h.cfg
  que := k.que.trans h.que
  log := k.log.trans h.log
  ses := by rw [k.ses, h.ses]

theorem SyncFrame.laneOf (h : SyncFrame s t) (w : Word) : laneOf t w = laneOf s w := by
  rw [Safety.laneOf, h.cfg, h.ses]

/-- `t` is reached from `s` by a run of `prog` whose accesses were `done`: so many entries are fed, so many stores are still
expected, and the next access is to be observed. `words` and `fails` are left of the answers after a deferred read. -/
structure Following (s : State) (ctx : Ctx) (prog : List Entry) (done : List (Slot × Record)) (n owed : Nat) (words : List Word)
    (fails : List Bool) (t : State) : Prop extends SyncFrame s t where
  context : t.run.ctx = some ctx
  program : t.run.prog = prog
  point : t.run.point = .poll .cycle 0
  progress : Progress prog n owed t.exe
  reads : Reads t (s.out.writeAll (storesOf s.cfg done)) words
  fails : t.input.fails = fails
  trace : t.port.trace.reverse = s.port.trace.reverse ++ done.flatMap fun p => cycleOps s.cfg (slotLane s prog p.1)

section
variable {ctx : Ctx} {prog : List Entry} {done : List (Slot × Record)} {n owed : Nat} {r : Record}

theorem following_startSync (quiet : Quiet s) (ne : prog ≠ []) (answers : s.input.words = words) (draws : s.input.fails = fails) :
    Following s ctx prog [] 0 0 words fails (startSync ctx prog s) where
  cfg := rfl
  que := rfl
  log := rfl
  ses := rfl
  context := rfl
  program := rfl
  point := rfl
  progress :=
    { phase := (if_neg fun empty => ne (List.length_eq_zero_iff.1 empty.symm)).symm
      count := rfl
      expected := rfl
      highest := fun _ lt => absurd lt (Nat.not_lt_zero _)
      noPass := rfl
      restarts := rfl }
  reads := .nothing rfl (queuesDiscards_of_nil quiet.queued) rfl answers
  fails := draws
  trace := (List.append_nil _).symm

/-- The next entry is fetched and fed. -/
theorem Following.fetch (h : Following s ctx prog done n owed (r.ctrl :: r.addr :: words) (false :: false :: fails) t)
    (more : n < prog.length) (passes : SlotPasses s.cfg prog (fetchSlot n) r) :
    ∃ u, Ticks t u ∧
      Following s ctx prog (done ++ [(fetchSlot n, r)]) (n + 1) (owed + if flagged prog n = true then 1 else 0) words fails u := by
  obtain ⟨fetch, addr⟩ : isFetch s.cfg r.ctrl ∧ r.addr = textAddr s.cfg n := passes
  obtain ⟨v, run, seen⟩ := ticks_cycle (isStore := false) h.point h.reads h.fails (by rw [h.cfg]; exact fetch)
  have frame := h.toSyncFrame.observed seen
  have progress : Progress prog n owed v.exe := seen.exe ▸ h.progress.withPending none
  have phase : v.exe.phase = .executing := progress.phase.trans (if_neg more.ne)
  have prog_eq : v.run.prog = prog := seen.prog.trans h.program
  have entry : v.run.prog[v.exe.codeCount]? = some (entryAt prog n) := by
    rw [prog_eq, progress.count, entryAt, List.getD_eq_getElem?_getD, List.getElem?_eq_getElem more]; rfl
  have matching : fetchExecuting r.addr v = feedEntry v := if_pos (by rw [frame.cfg, progress.count]; exact addr)
  rw [takeAccess_executing phase, matching, feedEntry_eq entry phase progress.noPass, prog_eq] at run
  refine ⟨_, run, ?_⟩
  exact
    { cfg := frame.cfg
      que := frame.que
      log := frame.log
      ses := frame.ses
      context := seen.ctx.trans h.context
      program := prog_eq
      point := rfl
      progress := progress.fed
      reads := .nothing (congrArg Executor.pending seen.exe) (by simp [queuesDiscards, portFed, seen.queued])
        (by simp [seen.out, storesOf]) seen.words
      fails := seen.fails
      trace := by
        simp [portFed, seen.trace, h.trace, observeOps, cycleOps, slotLane, frame.laneOf, frame.cfg, h.cfg] }

/-- A store that passes its checks is captured, and the next access waited for (rules R176, R185). -/
theorem storeCycle_defers (expected : s.exe.storePending ≠ 0) (low : s.cfg.paramOutBase.toNat ≤ a.toNat)
    (high : a.toNat ≤ s.exe.maxStoreAddr.toNat) (mult : a.toNat % 4 = 0) (noRestart : s.exe.phase ≠ .restarting)
    (noPass : s.exe.pass = false) :
    storeCycle a s =
      { s with
        exe :=
          { s.exe with
            pending := some { addr := a, handle := s.port.nextHandle }, storePending := s.exe.storePending - 1 }
        port := (finish (capture s)).port
        run := { s.run with point := .poll .cycle 0 } } := by
  rw [storeCycle_accepted expected low high mult, finishExchange_waits (by exact noRestart),
    if_neg (by exact fun h => Bool.noConfusion (noPass.symm.trans h.1))]
  rfl

/-- A store of an entry that is fed comes, and is deferred. -/
theorem Following.store {k : Nat}
    (h : Following s ctx prog done n owed (r.ctrl :: r.addr :: r.data :: words) (false :: false :: fails) t) (fed : k < n)
    (passes : SlotPasses s.cfg prog (storeSlot k) r) (valid : validStoreAddr s.cfg (entryAt prog k).addr = true)
    (expected : owed ≠ 0) :
    ∃ u, Ticks t u ∧ Following s ctx prog (done ++ [(storeSlot k, r)]) n (owed - 1) words fails u := by
  obtain ⟨store, addr⟩ : classify s.cfg.praccBit s.cfg.prnwBit r.ctrl = .store ∧ r.addr = (entryAt prog k).addr := passes
  obtain ⟨v, run, seen⟩ := ticks_cycle (isStore := true) h.point h.reads h.fails (by rw [h.cfg]; exact store)
  have frame := h.toSyncFrame.observed seen
  have progress : Progress prog n owed v.exe := seen.exe ▸ h.progress.withPending none
  obtain ⟨mult, low, -⟩ := (validStoreAddr_iff ..).1 valid
  have deferred : takeAccess true r.addr v = _ := storeCycle_defers (by rw [progress.expected]; exact expected)
    (by rw [frame.cfg, addr]; exact low) (by rw [addr]; exact progress.highest k fed) (by rw [addr]; exact mult)
    progress.noRestart progress.noPass
  rw [deferred] at run
  refine ⟨_, run, ?_⟩
  exact
    { cfg := frame.cfg
      que := frame.que
      log := frame.log
      ses := frame.ses
      context := seen.ctx.trans h.context
      program := seen.prog.trans h.program
      point := rfl
      progress := progress.stored _
      reads := .deferred rfl (by simp [finish_eq, capture_eq, seen.queued])
        (by simp [seen.out, storesOf, Memory.writeAll, frame.cfg]) seen.words
      fails := seen.fails
      trace := by
        simp [finish_eq, capture_eq, seen.trace, h.trace, observeOps, cycleOps, slotLane, frame.cfg, h.cfg] }

/-- A STORE slot after the FETCH slot of entry `n` is that of one more flagged entry (rule R222). -/
theorem count_flagged_storesAfter (lag : Nat) (prog : List Entry) (n : Nat) :
    Nat.count (flagged prog · = true) (n + 1 - lag) =
      Nat.count (flagged prog · = true) (n - lag) + (storesAfter lag prog n).length := by
  unfold storesAfter
  by_cases within : lag ≤ n
  · rw [Nat.succ_sub within, Nat.count_succ]
    by_cases store : flagged prog (n - lag) = true <;> simp [within, store]
  · simp [within, show n + 1 - lag = n - lag by omega]

/-- The accesses of the first `n` entries: each entry is fetched, and the store after it, if one stands there, is due. -/
theorem following_slotsUpTo {lag : Nat} {accesses : List (Slot × Record)} (quiet : Quiet s) (le : n ≤ prog.length)
    (ne : prog ≠ []) (addrs : ∀ e ∈ prog, storeOk s.cfg e.addr) (plan : accesses.map Prod.fst = slotsUpTo lag prog n)
    (passes : ∀ p ∈ accesses, SlotPasses s.cfg prog p.1 p.2) (answers : s.input.words = accesses.flatMap accessWords ++ words)
    (draws : s.input.fails = (accesses.flatMap fun _ => [false, false]) ++ fails) :
    ∃ t owed, Ticks (startSync ctx prog s) t ∧ Following s ctx prog accesses n owed words fails t ∧
      owed + Nat.count (flagged prog · = true) (n - lag) = Nat.count (flagged prog · = true) n := by
  induction n generalizing accesses words fails with
  | zero =>
    cases List.map_eq_nil_iff.1 plan
    exact ⟨_, 0, .refl, following_startSync quiet ne answers draws, by simp⟩
  | succ n ih =>
    rw [slotsUpTo_succ] at plan
    obtain ⟨before, after, rfl, planBefore, planAfter⟩ := List.map_eq_append_iff.1 plan
    obtain ⟨⟨slot, r⟩, stores, rfl, rfl, planStores⟩ := List.map_eq_cons_iff.1 planAfter
    have passesBefore : ∀ p ∈ before, SlotPasses s.cfg prog p.1 p.2 := fun p hp => passes p (List.mem_append_left _ hp)
    have passesFetch := passes (fetchSlot n, r) (List.mem_append_right _ List.mem_cons_self)
    rw [List.flatMap_append, List.append_assoc] at answers draws
    obtain ⟨t, owed, run, following, count⟩ := ih (by omega) planBefore passesBefore answers draws
    obtain ⟨u, next, following⟩ := following.fetch (by omega) passesFetch
    have count_fed := Nat.count_succ (flagged prog · = true) n
    have count_due := count_flagged_storesAfter lag prog n
    have count_le := Nat.count_monotone (flagged prog · = true) (show n + 1 - lag ≤ n + 1 by omega)
    by_cases due : lag ≤ n ∧ flagged prog (n - lag) = true
    · rw [storesAfter, if_pos due] at planStores count_due
      rw [List.length_singleton] at count_due
      obtain ⟨⟨slot, q⟩, rfl, rfl⟩ := List.map_eq_singleton_iff.1 planStores
      have passesStore := passes (storeSlot (n - lag), q) (List.mem_append_right _ (List.mem_cons_of_mem _ List.mem_cons_self))
      have valid : validStoreAddr s.cfg (entryAt prog (n - lag)).addr = true := by
        have store : (entryAt prog (n - lag)).addr ≠ 0#32 := by simpa using due.2
        obtain entry | plain := entryAt_mem_or prog (n - lag)
        · exact (addrs _ entry).resolve_left store
        · exact absurd plain store
      obtain ⟨v, last, following⟩ := following.store (by omega) passesStore valid (by omega)
      rw [List.append_assoc] at following
      exact ⟨v, _, (run.trans next).trans last, following, by omega⟩
    · rw [storesAfter, if_neg due] at planStores count_due
      cases List.map_eq_nil_iff.1 planStores
      rw [List.length_nil] at count_due
      exact ⟨u, _, run.trans next, following, by omega⟩

/-! ## The return (rules R181, R186) -/

/-- `t` has come back to TEXT_BASE with nothing left to read, and its run is to end OK. -/
structure Returned (s : State) (ctx : Ctx) (prog : List Entry) (accesses : List (Slot × Record)) (c : Word) (words : List Word)
    (fails : List Bool) (t : State) : Prop extends SyncFrame s t where
  context : t.run.ctx = some ctx
  noRead : t.exe.pending = none
  restarts : t.exe.restartCount = 0
  lastCtrl : t.ses.lastCtrl = c
  lastAddr : t.ses.lastAddr = s.cfg.textBase
  out : t.out = s.out.writeAll (storesOf s.cfg accesses)
  queued : t.port.queued = []
  words : t.input.words = words
  fails : t.input.fails = fails
  trace : t.port.trace.reverse =
    s.port.trace.reverse ++ accesses.flatMap (fun p => cycleOps s.cfg (slotLane s prog p.1)) ++ returnOps s.cfg

theorem tick_drain (point : s.run.point = .drain) (ran : execQueued s = .got () t) : tick s = drained t := by
  rw [tick, point]
  simp only [ran]

/-- With every entry fed and no store expected, a return to TEXT_BASE drains the run. -/
theorem Following.returns (h : Following s ctx prog done n 0 (c :: s.cfg.textBase :: words) (false :: false :: false :: fails) t)
    (all : n = prog.length) (fetch : isFetch s.cfg c) :
    ∃ u, Ticks t (succeed u) ∧ Returned s ctx prog done c words fails u := by
  obtain ⟨v, run, seen⟩ := ticks_cycle (isStore := false) h.point h.reads h.fails (by rw [h.cfg]; exact fetch)
  have frame := h.toSyncFrame.observed seen
  have progress : Progress prog n 0 v.exe := seen.exe ▸ h.progress.withPending none
  have noRead : v.exe.pending = none := congrArg Executor.pending seen.exe
  rw [takeAccess_final (progress.phase.trans (if_pos all)), ← frame.cfg,
    fetchFinal_drains progress.noPass progress.expected] at run
  have drain := tick_drain (s := v.waitAt .drain) rfl
    (execQueued_got (by exact seen.fails) (queuesDiscards_of_nil (by exact seen.queued)))
  rw [drained, resolvePending_none (by exact noRead)] at drain
  refine ⟨_, run.tail drain, ?_⟩
  exact
    { cfg := frame.cfg
      que := frame.que
      log := frame.log
      ses := frame.ses
      context := seen.ctx.trans h.context
      noRead := noRead
      restarts := progress.restarts
      lastCtrl := congrArg Session.lastCtrl seen.ses
      lastAddr := congrArg Session.lastAddr seen.ses
      out := seen.out
      queued := rfl
      words := seen.words
      fails := rfl
      trace := by simp [seen.trace, h.trace, observeOps, returnOps, h.cfg] }

/-- The transport draws of so many accesses: one for the control scan, one for the address scan. -/
theorem replicate_two_mul {α β : Type} (x : β) (l : List α) :
    List.replicate (2 * l.length) x = l.flatMap fun _ => [x, x] := by
  induction l with
  | nil => rfl
  | cons _ l ih => rw [List.length_cons, Nat.mul_succ, List.replicate_succ, List.replicate_succ, ih]; rfl

/-- A synchronous run whose target follows the plan and returns to TEXT_BASE (rules R171 to R187). -/
theorem ticks_planned {accesses : List (Slot × Record)} (quiet : Quiet s) (ne : prog ≠ [])
    (addrs : ∀ e ∈ prog, storeOk s.cfg e.addr) (lastPlain : s.cfg.storeScanLag = .one → lastEntryPlain prog)
    (follows : FollowsPlan s.cfg prog accesses) (fetch : isFetch s.cfg c)
    (answers : s.input.words = accesses.flatMap accessWords ++ c :: s.cfg.textBase :: words)
    (draws : s.input.fails = List.replicate (2 * (accesses.length + 1) + 1) false ++ fails) :
    ∃ u, Ticks (startSync ctx prog s) (succeed u) ∧ Returned s ctx prog accesses c words fails u := by
  have plan := follows.plan.trans (buildSlots_eq s.cfg prog)
  have draws : s.input.fails = (accesses.flatMap fun _ => [false, false]) ++ false :: false :: false :: fails := by
    rw [draws, ← replicate_two_mul, Nat.mul_succ, Nat.add_assoc, List.replicate_add, List.append_assoc]
    rfl
  obtain ⟨t, owed, run, following, count⟩ := following_slotsUpTo quiet le_rfl ne addrs plan
    (fun p hp => checkSlot_eq_none_iff.1 (follows.expected p hp)) answers draws
  have allStored : Nat.count (flagged prog · = true) (prog.length - slotLag s.cfg.storeScanLag) =
      Nat.count (flagged prog · = true) prog.length := by
    cases lag : s.cfg.storeScanLag with
    | zero => rfl
    | one =>
      have plain : ¬ flagged prog (prog.length - 1) = true := by simpa using lastPlain lag
      have last := Nat.count_succ (flagged prog · = true) (prog.length - 1)
      rw [Nat.sub_add_cancel (List.length_pos_iff.2 ne), if_neg plain] at last
      exact last.symm
  obtain rfl : owed = 0 := by omega
  obtain ⟨u, back, returned⟩ := following.returns rfl fetch
  exact ⟨u, run.trans back, returned⟩

end

/-- Settles O41: the run follows the plan of Q, and its end is EXEC's. -/
theorem syncExecRunsAPlannedQueue : Obligations.SyncExecRunsAPlannedQueue := by
  intro s accesses c words fails quiet noError mode ne inv lastPlain follows fetch answers draws
  obtain ⟨u, run, returned⟩ := ticks_planned (ctx := .execSync) quiet ne inv.addrs lastPlain follows fetch answers draws
  rw [succeed_own (.inl returned.context), endCommand_eq] at run
  exact ⟨_, exec_sync_of_ticks noError mode ne run rfl,
    ⟨rfl, rfl, returned.noRead, returned.log.trans quiet.log, returned.queued⟩, rfl, returned.out,
    (congrArg Session.mode returned.ses).trans mode, returned.restarts, returned.lastCtrl, returned.lastAddr,
    returned.words, returned.fails, returned.trace⟩

/-! ## RECOVER (rules R263, R264) -/

/-- RECOVER ends where the micro-steps of its run lead (rules R263, R266). -/
theorem exec_recover_of_ticks {first last : RegNum} (le : first ≤ last)
    (ne : recoveryProgram s.ses.isa s.ses.snap first last ≠ [])
    (h : Ticks (startSync (.recover first last) (recoveryProgram s.ses.isa s.ses.snap first last) s) t)
    (idle : t.run.point = .idle) : exec (.recover first last) s = .next t := by
  have start : startRecover first last s =
      startSync (.recover first last) (recoveryProgram s.ses.isa s.ses.snap first last) s := by
    unfold startRecover
    rw [if_neg (BitVec.not_lt.2 le)]
    exact ((startRecovery_cases ..).resolve_left fun h => ne h.1).2
  rw [← runToEnd_eq_of_ticks h idle (startSync_ends rfl ne s), ← start]
  rfl

/-- The accesses of a straight run of `n` fetches, all with control word `c`. -/
def straightAccesses (cfg : Config) (c : Word) (n : Nat) : List (Slot × Record) :=
  (List.range n).map fun k => (fetchSlot k, { ctrl := c, data := 0#32, addr := textAddr cfg k })

theorem length_straightAccesses (cfg : Config) (c : Word) (n : Nat) : (straightAccesses cfg c n).length = n := by
  rw [straightAccesses, List.length_map, List.length_range]

theorem straightWords_eq (cfg : Config) (c : Word) (n : Nat) :
    straightWords cfg c n = (straightAccesses cfg c n).flatMap accessWords ++ [c, cfg.textBase] := by
  rw [straightWords, straightAccesses, List.flatMap_map]
  rfl

theorem storesOf_straightAccesses (cfg : Config) (c : Word) (n : Nat) : storesOf cfg (straightAccesses cfg c n) = [] := by
  simp [storesOf, straightAccesses]

section
variable {prog : List Entry} (plain : ∀ e ∈ prog, e.addr = 0#32)
include plain

theorem entryAt_plain (k : Nat) : (entryAt prog k).addr = 0#32 := (entryAt_mem_or prog k).elim (plain _) id

/-- The plan of a program that expects no store is a fetch of each entry (rule R222). -/
theorem followsPlan_straightAccesses {cfg : Config} (fetch : isFetch cfg c) :
    FollowsPlan cfg prog (straightAccesses cfg c prog.length) where
  plan := by
    have noStores (lag k : Nat) : storesAfter lag prog k = [] := if_neg fun h => by simp [entryAt_plain plain] at h
    simp only [buildSlots_eq, slotsUpTo, noStores, straightAccesses, List.map_map]
    exact List.map_eq_flatMap
  expected := fun p hp => by
    obtain ⟨k, -, rfl⟩ := List.mem_map.1 hp
    exact checkSlot_eq_none_iff.2 ⟨fetch, rfl⟩

end

theorem straightAccesses_ops (s : State) (c : Word) (prog : List Entry) :
    (straightAccesses s.cfg c prog.length).flatMap (fun p => cycleOps s.cfg (slotLane s prog p.1)) =
      prog.flatMap fun e => cycleOps s.cfg (laneOf s e.instr) := by
  have entries : prog = (List.range prog.length).map (entryAt prog) := by
    rw [← take_eq_map_entryAt le_rfl, List.take_length]
  conv_rhs => rw [entries]
  rw [straightAccesses, List.flatMap_map, List.flatMap_map]
  rfl

/-- Settles O29: the recovery program stores nothing, so that the straight run follows its plan, and its end is RECOVER's. -/
theorem recoverRestoresOnAStraightTarget : Obligations.RecoverRestoresOnAStraightTarget := by
  intro s first last c words fails prog quiet le ne fetch answers draws
  have plain : ∀ e ∈ prog, e.addr = 0#32 := fun _ => recoveryProgram_addr
  rw [straightWords_eq, List.append_assoc] at answers
  rw [← length_straightAccesses s.cfg c prog.length] at draws
  obtain ⟨u, run, returned⟩ := ticks_planned (ctx := .recover first last) quiet ne (fun e he => .inl (plain e he))
    (fun _ => entryAt_plain plain _) (followsPlan_straightAccesses plain fetch) fetch answers draws
  have trace := returned.trace
  rw [straightAccesses_ops] at trace
  have out := returned.out
  rw [storesOf_straightAccesses] at out
  rw [succeed_recover returned.context] at run
  exact ⟨_, exec_recover_of_ticks le ne run rfl,
    ⟨rfl, rfl, returned.noRead, returned.log.trans quiet.log, returned.queued⟩, rfl,
    if_congr (coversScratch_iff ..).symm rfl (congrArg Session.scratchSuspect returned.ses :), returned.que, out,
    (congrArg Session.mode returned.ses :), (congrArg Session.snap returned.ses :), (congrArg Session.diag returned.ses :),
    returned.words, returned.fails, trace⟩

end Sys2Proof.Proofs
end

section
/-! SUPPORT. The mode (rules R231, R232, R261): what an instruction and a step make of it; and the error exit of an EXEC, by its
executor (rules R290, R298). -/

namespace Sys2Proof.Proofs

open Sys2Proof.Machine Sys2Proof.Safety

variable {s t : State}

/-! ## The mode -/

/-- The mode that an instruction leaves: the one that SET_MODE names, the one before it, or SYNC (rules R231, R261). -/
theorem exec_mode {i : Instr} (next : exec i s = .next t) :
    i = .setMode t.ses.mode ∨ t.ses.mode = s.ses.mode ∨ t.ses.mode = .sync := by
  have appended {p : Bool × State} (f : AppendFrame s p.2) : (endAppend p).ses.mode = s.ses.mode := by
    unfold endAppend; split <;> exact (congrArg Session.mode f.ses :)
  cases i with
  | setMode mode => cases next; exact .inl rfl
  | qAdd instr addr =>
    cases next
    refine .inr (.inl ?_)
    split
    · rfl
    · split
      · rfl
      · exact appended (appendFrame_appendEntry ..)
  | qAddLi reg optimize value =>
    cases next
    refine .inr (.inl ?_)
    split
    · rfl
    · exact appended (appendFrame_appendAll ..)
  | exec => cases next; exact .inr ((runFrame_startExec s).trans (runFrame_runToEnd _)).mode
  | feedUnchecked => cases next; exact .inr ((runFrame_startFeed s).trans (runFrame_runToEnd _)).mode
  | recover first last => cases next; exact .inr ((runFrame_startRecover ..).trans (runFrame_runToEnd _)).mode
  | setSnapshot reg value =>
    cases next
    refine .inr (.inl ?_)
    split <;> rfl
  | ctrlNotPending c => cases next; exact .inr (runFrame_onNotPending s).mode
  | ctrlFetch c | ctrlStore c => cases next; exact .inr (runFrame_onAccess ..).mode
  | qInit | setIsa | reservedCmd9 | reservedCmdAB | reservedCmdCF | nop | lui | ori | j | b =>
    cases next; exact .inr (.inl rfl)

/-- Settles O53: beside SET_MODE an instruction, and a micro-step of a running command, keeps the mode or makes it SYNC; a word of
the target changes the target view alone. -/
theorem onlySetModeEscalates : Obligations.OnlySetModeEscalates := by
  refine ⟨fun s t i next batched sync => ?_, fun s t running next batched => ?_⟩
  · obtain named | kept | lowered := exec_mode next
    · rw [named, batched]
    · rw [batched, sync] at kept; cases kept
    · rw [batched] at lowered; cases lowered
  · obtain ⟨w0, w1, w2, rest, -, idle, -⟩ | ⟨w, rest, -, e⟩ | e := step_cases s
    · exact absurd idle running
    · obtain ⟨x, rfl⟩ := stepTarget_next (e.symm.trans next)
      exact batched
    · cases e.symm.trans next
      obtain kept | lowered := (runFrame_tick s).mode
      · exact kept.symm.trans batched
      · rw [batched] at lowered; cases lowered

/-! ## The error exit of an EXEC (rules R290, R298) -/

theorem recovers_iff {k : Kind} : k.recovers = true ↔ k = .desync ∨ k = .unexpectedReturn := by
  cases k <;> decide

/-- What ERROR_EXIT does before any recovery (rule R298). -/
theorem recordFailure_eq (batched : Bool) (r : Reason) (s : State) :
    recordFailure batched r s =
      { s with
        ses := { s.ses with diag := diagnose r s, mode := if batched then .sync else s.ses.mode }
        exe := { s.exe with phase := .failed, pending := none }
        log := [] } := by
  cases batched <;> rfl

/-- ERROR_EXIT of an EXEC records the failure as its executor has it; after a protocol error with something to restore it runs the
recovery, else it ends the command (rules R298, R300). -/
theorem errorExit_exec (batched : Bool) (k : Kind) (r : Reason) (s : State) :
    errorExit (some (if batched then .execBatched else .execSync)) k r s =
      if (k = .desync ∨ k = .unexpectedReturn) ∧ recoveryProgram s.ses.isa s.ses.snap 0 31 ≠ [] then
        startSync (.exitRecovery k) (recoveryProgram s.ses.isa s.ses.snap 0 31) (recordFailure batched r s)
      else endCommand k (recordFailure batched r s) := by
  have exit : errorExit (some (if batched then .execBatched else .execSync)) k r s =
      if k.recovers then startRecovery (.exitRecovery k) 0 31 (endCommand k) (recordFailure batched r s)
      else endCommand k (recordFailure batched r s) := by
    cases batched <;> rfl
  have frame := runFrame_recordFailure batched r s
  rw [exit]
  obtain ⟨empty, e⟩ | ⟨ne, e⟩ := startRecovery_cases (.exitRecovery k) 0 31 (endCommand k) (recordFailure batched r s)
  all_goals rw [e]
  · rw [ite_self, if_neg fun h => h.2 (by rwa [frame.isa, frame.snap] at empty)]
  · rw [frame.isa, frame.snap] at ne ⊢
    exact if_congr (recovers_iff.trans (and_iff_left ne).symm) rfl rfl

/-- Settles O48: the error exit on what is recorded of the failure. -/
theorem theErrorExitOfExec : Obligations.TheErrorExitOfExec := by
  refine ⟨by decide, fun s batched k r => ?_⟩
  dsimp only
  rw [errorExit_exec, recordFailure_eq]
  rfl

end Sys2Proof.Proofs
end

section
/-! SUPPORT. The batched executor (rules R220 to R230): the scans of its plan, the records they bring in, the replay of the records,
and the batch that is committed. -/

namespace Sys2Proof.Proofs

open Sys2Proof.Machine Sys2Proof.Safety

variable {s t u : State} {accesses : List (Slot × Record)} {records : List Record}

/-! ## The scans of the plan (rules R221, R223) -/

/-- The scans of so many slots, queued with handles in order. -/
theorem issueSlots_eq (slots : List Slot) (s : State) :
    issueSlots slots s =
      (slots.zip (List.range' s.port.nextHandle slots.length),
        { s with
          port :=
            { s.port with
              queued := s.port.queued ++ (List.range' s.port.nextHandle slots.length).map .keep96
              nextHandle := s.port.nextHandle + slots.length
              trace := (slots.flatMap fun x => slotOps s.cfg (slotData s x)).reverse ++ s.port.trace } }) := by
  induction slots generalizing s with
  | nil => simp [issueSlots]
  | cons slot slots ih =>
    rw [issueSlots, ih]
    simp [slotScan, scan96Q, pace, emit, slotOps, slotData, State.withPort, List.range'_succ, Nat.add_comm 1, Nat.add_assoc]

/-- The slots of the plan of Q, each with the handle of its scan. -/
def batchPlan (s : State) : List (Slot × Nat) :=
  (buildSlots s.cfg s.que.entries).zip
    (List.range' s.port.nextHandle (buildSlots s.cfg s.que.entries).length)

/-- The batched executor waits for its one ExecQueued, every slot's scan queued (rule R221). -/
theorem startBatched_eq (s : State) :
    startBatched s =
      { s with
        exe := { Executor.reset with phase := .executing }
        run := { ctx := some .execBatched, prog := s.que.entries, point := .batch (batchPlan s) }
        port :=
          { s.port with
            ir := s.cfg.ir.all
            queued :=
              s.port.queued ++
                (List.range' s.port.nextHandle (buildSlots s.cfg s.que.entries).length).map .keep96
            nextHandle := s.port.nextHandle + (buildSlots s.cfg s.que.entries).length
            trace :=
              ((buildSlots s.cfg s.que.entries).flatMap fun x => slotOps s.cfg (slotLane s s.que.entries x)).reverse ++
                .setIR s.cfg.ir.all :: s.port.trace } } := by
  rw [startBatched]
  dsimp only
  rw [issueSlots_eq]
  rfl

theorem tick_batch_failed (failed : execQueued (startBatched s) = .failed u) :
    tick (startBatched s) = raise .transport .transport u := by
  have point : (startBatched s).run.point = .batch (batchPlan s) := by rw [startBatched_eq]
  rw [tick, point]
  simp only [failed]

theorem tick_batch_got (ran : execQueued (startBatched s) = .got () u) : tick (startBatched s) = batchRan (batchPlan s) u := by
  have point : (startBatched s).run.point = .batch (batchPlan s) := by rw [startBatched_eq]
  rw [tick, point]
  simp only [ran]

/-! ## The records of the scans (rules R87, R140, R224) -/

/-- `u` is `s` with the records of accesses captured by scans whose handles begin at `h`; `records` are left of those laid down. -/
structure Captured (s : State) (h : Nat) (accesses : List (Slot × Record)) (records : List Record) (u : State) : Prop where
  frame : u =
    { s with
      port := { s.port with captured96 := u.port.captured96 }
      input := { s.input with records := records } }
  earlier : ∀ i < h, u.port.captured96.lookup i = s.port.captured96.lookup i
  read : ((accesses.map Prod.fst).zip (List.range' h accesses.length)).map (fun p => (p.1, capturedRecord u p.2)) = accesses

theorem runScans_keep96 {h : Nat} {qs : List QueuedScan} {r : Record} (laid : s.input.records = r :: records) :
    runScans (.keep96 h :: qs) s =
      runScans qs
        { s with
          port := { s.port with captured96 := (h, r) :: s.port.captured96 }
          input := { s.input with records := records } } := by
  rw [runScans, drawRecord_cons laid]
  rfl

theorem captured_runScans {h : Nat} (laid : s.input.records = accesses.map Prod.snd ++ records) :
    Captured s h accesses records (runScans ((List.range' h accesses.length).map .keep96) s) := by
  induction accesses generalizing s h with
  | nil => exact ⟨by rw [show records = s.input.records from laid.symm]; rfl, fun _ _ => rfl, rfl⟩
  | cons p rest ih =>
    obtain ⟨slot, r⟩ := p
    rw [List.length_cons, List.range'_succ, List.map_cons, runScans_keep96 (by exact laid)]
    obtain ⟨frame, earlier, read⟩ := ih (h := h + 1)
      (s :=
        { s with
          port := { s.port with captured96 := (h, r) :: s.port.captured96 }
          input := { s.input with records := rest.map Prod.snd ++ records } }) rfl
    refine ⟨frame, fun i lt => (earlier i (by omega)).trans ?_, ?_⟩
    · rw [List.lookup_cons, beq_false_of_ne (Nat.ne_of_lt lt)]
    · have first : capturedRecord _ h = r :=
        congrArg (Option.getD · _) ((earlier h (Nat.lt_succ_self h)).trans List.lookup_cons_self)
      rw [List.map_cons, List.length_cons, List.range'_succ, List.zip_cons_cons, List.map_cons]
      exact congrArg₂ List.cons (congrArg (Prod.mk slot) first) read

/-- A transport draw is no matter of the port. -/
theorem drawFail_withPort (p : Port) (s : State) :
    (drawFail (s.withPort p)).2 = { s with port := p, input := (drawFail s).2.input } := by
  unfold drawFail
  rw [State.withPort_input]
  cases s.input.fails <;> rfl

theorem drawFail_records (s : State) : (drawFail s).2.input.records = s.input.records := by
  unfold drawFail; split <;> rfl

/-- Where ExecQueued does not fail, what is queued has run (rules R140, R141). -/
theorem execQueued_ran (ran : execQueued s = .got () u) :
    u = runScans s.port.queued
      { s with
        port := { s.port with queued := [], trace := .execQueued :: s.port.trace }
        input := (drawFail s).2.input } := by
  unfold execQueued runPort emit at ran
  dsimp only at ran
  split at ran
  case isTrue => cases ran
  case isFalse =>
    cases ran
    rw [drawFail_withPort]
    rfl

/-- `u` is a batched EXEC from `s` whose scans have run: the accesses of its plan are read from the records captured, and `records`
are left of those laid down. -/
structure BatchRun (s : State) (accesses : List (Slot × Record)) (records : List Record) (u : State) : Prop where
  cfg : u.cfg = s.cfg
  ses : u.ses = s.ses
  que : u.que = s.que
  exe : u.exe = { Executor.reset with phase := .executing }
  out : u.out = s.out
  log : u.log = s.log
  ctx : u.run.ctx = some .execBatched
  prog : u.run.prog = s.que.entries
  queued : u.port.queued = []
  trace : u.port.trace.reverse =
    s.port.trace.reverse ++ [.setIR s.cfg.ir.all] ++
      accesses.flatMap (fun p => slotOps s.cfg (slotLane s s.que.entries p.1)) ++ [.execQueued]
  records : u.input.records = records
  read : (batchPlan s).map (fun p => (p.1, capturedRecord u p.2)) = accesses

theorem batchRun_of_ran (queued : s.port.queued = []) (plan : accesses.map Prod.fst = buildSlots s.cfg s.que.entries)
    (laid : s.input.records = accesses.map Prod.snd ++ records) (ran : execQueued (startBatched s) = .got () u) :
    BatchRun s accesses records u := by
  have scans : (startBatched s).port.queued = (List.range' s.port.nextHandle accesses.length).map .keep96 := by
    rw [startBatched_eq, queued, ← plan, List.length_map]; rfl
  have laid : (drawFail (startBatched s)).2.input.records = accesses.map Prod.snd ++ records := by
    rw [drawFail_records, startBatched_eq]; exact laid
  have run := execQueued_ran ran
  rw [scans] at run
  obtain ⟨frame, -, read⟩ := captured_runScans (h := s.port.nextHandle)
    (s :=
      { startBatched s with
        port := { (startBatched s).port with queued := [], trace := .execQueued :: (startBatched s).port.trace }
        input := (drawFail (startBatched s)).2.input }) laid
  rw [← run] at frame read
  rw [startBatched_eq, ← plan] at frame
  exact
    { cfg := (congrArg State.cfg frame :)
      ses := (congrArg State.ses frame :)
      que := (congrArg State.que frame :)
      exe := (congrArg State.exe frame :)
      out := (congrArg State.out frame :)
      log := (congrArg State.log frame :)
      ctx := (congrArg (·.run.ctx) frame :)
      prog := (congrArg (·.run.prog) frame :)
      queued := (congrArg (·.port.queued) frame :)
      trace := (congrArg (·.port.trace.reverse) frame :).trans (by simp [List.flatMap_map])
      records := (congrArg (·.input.records) frame :)
      read := by rw [batchPlan, ← plan, List.length_map]; exact read }

/-! ## The replay (rules R225, R226, R229) -/

/-- E.code_count once slots are replayed (rule R226). -/
def countAfter (count : Nat) (slots : List Slot) : Nat := slots.foldl (fun n x => if x.isStore then n else x.k + 1) count

/-- The plan of `n` entries counts them (rule R222). -/
theorem countAfter_slotsUpTo (lag : Nat) (prog : List Entry) (n : Nat) : countAfter 0 (slotsUpTo lag prog n) = n := by
  cases n with
  | zero => rfl
  | succ n =>
    rw [slotsUpTo_succ, countAfter, List.foldl_append]
    unfold storesAfter
    split <;> rfl

/-- A replay changes what was last observed, and counts the entries fetched (rule R226). -/
def Replayed (s u : State) : Prop :=
  u =
    { s with
      ses := { s.ses with lastCtrl := u.ses.lastCtrl, lastAddr := u.ses.lastAddr }
      exe := { s.exe with codeCount := u.exe.codeCount } }

theorem replayed_replay (log : List (Slot × Record)) (stage : List (Nat × Word)) (s : State) :
    Replayed s (replay log stage s).2.2 := by
  induction log generalizing stage s with
  | nil => rfl
  | cons p rest ih =>
    unfold replay
    dsimp only
    split
    · rfl
    · split <;> exact ih ..

/-- Records that pass are replayed one after another, and their stores staged. -/
theorem replay_append {before rest : List (Slot × Record)} {stage : List (Nat × Word)}
    (pass : ∀ p ∈ before, checkSlot s.cfg s.run.prog p.1 p.2 = none) :
    ∃ u, replay (before ++ rest) stage s = replay rest (stage ++ storesOf s.cfg before) u ∧ Replayed s u ∧
      u.exe.codeCount = countAfter s.exe.codeCount (before.map Prod.fst) := by
  induction before generalizing stage s with
  | nil => exact ⟨s, by simp [storesOf], rfl, rfl⟩
  | cons p before ih =>
    obtain ⟨slot, r⟩ := p
    have first : checkSlot s.cfg s.run.prog slot r = none := pass _ List.mem_cons_self
    have later := fun p hp => pass p (List.mem_cons_of_mem _ hp)
    rw [List.cons_append, replay]
    simp only [State.withSes_cfg, State.withSes_run, first]
    split
    case isTrue store =>
      obtain ⟨u, replayed, frame, count⟩ := ih (stage := stage ++ [(outIndex s.cfg r.addr, r.data)])
        (s := s.withSes { s.ses with lastCtrl := r.ctrl, lastAddr := r.addr }) later
      exact ⟨u, replayed.trans (by simp [storesOf, store]), frame, count.trans (by simp [countAfter, store])⟩
    case isFalse fetch =>
      obtain ⟨u, replayed, frame, count⟩ := ih (stage := stage)
        (s := (s.withSes { s.ses with lastCtrl := r.ctrl, lastAddr := r.addr }).withExe { s.exe with codeCount := slot.k + 1 })
        later
      exact ⟨u, replayed.trans (by simp [storesOf, fetch]), frame, count.trans (by simp [countAfter, fetch])⟩

/-! ## The ends of a batch (rules R226, R229, R230) -/

/-- Where every record passes, the batch is committed and ends OK. -/
theorem BatchRun.commits (h : BatchRun s accesses records u)
    (pass : ∀ p ∈ accesses, checkSlot s.cfg s.que.entries p.1 p.2 = none) :
    ∃ v, batchRan (batchPlan s) u =
        endCommand .ok (((v.withOut (s.out.writeAll (storesOf s.cfg accesses))).withLog []).withPhase .passed) ∧
      Replayed (u.withLog (accesses.map Prod.snd)) v ∧ v.exe.codeCount = countAfter 0 (accesses.map Prod.fst) := by
  obtain ⟨v, replayed, frame, count⟩ := replay_append (rest := []) (stage := []) (s := u.withLog (accesses.map Prod.snd))
    (by rw [State.withLog_cfg, State.withLog_run, h.cfg, h.prog]; exact pass)
  have out : v.out = s.out := (congrArg State.out frame :).trans h.out
  have ctx : v.run.ctx = some .execBatched := (congrArg (·.run.ctx) frame :).trans h.ctx
  rw [State.withLog_exe, h.exe] at count
  rw [List.append_nil, replay, State.withLog_cfg, h.cfg, List.nil_append] at replayed
  refine ⟨v, ?_, frame, count⟩
  rw [batchRan, h.read]
  rw [replayed]
  dsimp only
  rw [succeed_own (.inr (.inl (by exact ctx))), out]

/-- The first record that breaks its slot fails the batch (rules R227, R228). -/
theorem BatchRun.breaks {before after : List (Slot × Record)} {slot : Slot} {r : Record} {k : Kind} {why : Reason}
    (h : BatchRun s (before ++ (slot, r) :: after) records u)
    (pass : ∀ p ∈ before, checkSlot s.cfg s.que.entries p.1 p.2 = none)
    (check : checkSlot s.cfg s.que.entries slot r = some (k, why)) :
    ∃ v, batchRan (batchPlan s) u = raise k why v ∧ v.run.ctx = some .execBatched ∧
      v.ses = { s.ses with lastCtrl := r.ctrl, lastAddr := r.addr } ∧ v.exe.phase = .executing ∧ v.out = s.out := by
  obtain ⟨v, replayed, frame, -⟩ := replay_append (before := before) (rest := (slot, r) :: after) (stage := [])
    (s := u.withLog ((before ++ (slot, r) :: after).map Prod.snd))
    (by rw [State.withLog_cfg, State.withLog_run, h.cfg, h.prog]; exact pass)
  have cfg : v.cfg = s.cfg := (congrArg State.cfg frame :).trans h.cfg
  have prog : v.run.prog = s.que.entries := (congrArg (·.run.prog) frame :).trans h.prog
  have ses : v.ses = { s.ses with lastCtrl := v.ses.lastCtrl, lastAddr := v.ses.lastAddr } :=
    (congrArg State.ses frame :).trans (by rw [State.withLog_ses, h.ses])
  rw [replay] at replayed
  simp only [State.withSes_cfg, State.withSes_run, cfg, prog, check] at replayed
  refine ⟨v.withSes { v.ses with lastCtrl := r.ctrl, lastAddr := r.addr }, ?_, (congrArg (·.run.ctx) frame :).trans h.ctx, ?_,
    (congrArg (·.exe.phase) frame :).trans (by rw [State.withLog_exe, h.exe]), (congrArg State.out frame :).trans h.out⟩
  · rw [batchRan, h.read]
    dsimp only
    rw [replayed]
  · rw [State.withSes_ses, ses]

/-! ## EXEC in batched mode -/

/-- EXEC in batched mode ends where the micro-steps of its run lead (rules R170, R266). -/
theorem exec_batched_of_ticks (noError : s.que.error = false) (mode : s.ses.mode = .batched) (ne : s.que.entries ≠ [])
    (h : Ticks (startBatched s) t) (idle : t.run.point = .idle) : exec .exec s = .next t := by
  have start : startExec s = startBatched s := by
    unfold startExec; rw [noError, if_neg Bool.false_ne_true, if_neg ne, mode]
  rw [← runToEnd_eq_of_ticks h idle (startBatched_ends s), ← start]
  rfl

/-- ExecQueued runs the batch where the next draw is no failure (rule R141). -/
theorem startBatched_ran {fails : List Bool} (draws : s.input.fails = false :: fails) :
    ∃ u, execQueued (startBatched s) = .got () u :=
  ⟨_, runPort_got (s := emit .execQueued (startBatched s)) (fs := fails) (by rw [startBatched_eq]; exact draws)⟩

/-- What EXEC in batched mode comes to where its scans run and every record passes (rules R221 to R230). -/
theorem exec_batched_commits (quiet : Quiet s) (noError : s.que.error = false) (mode : s.ses.mode = .batched)
    (ne : s.que.entries ≠ []) (follows : FollowsPlan s.cfg s.que.entries accesses)
    (laid : s.input.records = accesses.map Prod.snd ++ records) (ran : execQueued (startBatched s) = .got () u) :
    ∃ t, exec .exec s = .next t ∧ Quiet t ∧ t.ses.status = .ok ∧ t.ses.mode = .batched ∧
      t.out = s.out.writeAll (storesOf s.cfg accesses) ∧ t.exe.codeCount = s.que.entries.length ∧ t.input.records = records ∧
      t.port.trace.reverse =
        s.port.trace.reverse ++ [.setIR s.cfg.ir.all] ++
          accesses.flatMap (fun p => slotOps s.cfg (slotLane s s.que.entries p.1)) ++ [.execQueued] := by
  have batch := batchRun_of_ran quiet.queued follows.plan laid ran
  obtain ⟨v, ends, frame, count⟩ := batch.commits follows.expected
  rw [follows.plan, buildSlots_eq, countAfter_slotsUpTo] at count
  have port : v.port = u.port := (congrArg State.port frame :)
  refine ⟨_, exec_batched_of_ticks noError mode ne (.single ((tick_batch_got ran).trans ends)) rfl,
    ⟨rfl, rfl, ?_, rfl, (congrArg Port.queued port).trans batch.queued⟩, rfl, ?_, rfl, count,
    (congrArg (·.input.records) frame :).trans batch.records,
    (congrArg (fun p : Port => p.trace.reverse) port).trans batch.trace⟩
  · exact (congrArg (·.exe.pending) frame :).trans (by rw [State.withLog_exe, batch.exe]; rfl)
  · exact (congrArg (·.ses.mode) frame :).trans (by rw [State.withLog_ses, batch.ses, mode])

/-- Settles O42: the records laid down are those that the plan expects, so that the batch is committed. -/
theorem batchedExecRunsAPlannedQueue : Obligations.BatchedExecRunsAPlannedQueue := by
  intro s accesses records fails quiet noError mode ne follows laid draws
  obtain ⟨u, ran⟩ := startBatched_ran draws
  exact exec_batched_commits quiet noError mode ne follows laid ran

end Sys2Proof.Proofs
end

section
/-! SUPPORT. A batched EXEC that fails (rules R226 to R231, R298, R300 to R302): what the recovery of its error exit leaves, and the
record that is named. -/

namespace Sys2Proof.Proofs

open Sys2Proof.Machine Sys2Proof.Safety

variable {P : StorePolicy} {s t u v : State} {k : Kind}

/-! ## The recovery of an error exit (rules R301, R302) -/

theorem Unfinished.trans {c : Option Ctx} (h : Unfinished c s t) (g : Unfinished c t u) : Unfinished c s u :=
  ⟨g.diag.trans h.diag, g.mode.trans h.mode, fun c => (g.suspect c).trans (h.suspect c), fun c => (g.out c).trans (h.out c)⟩

/-- Where the recovery that began at `s`, in the error exit of an EXEC that failed with `k`, stands: it runs, or the EXEC has ended
with `k`. -/
inductive Recovery (P : StorePolicy) (k : Kind) (s t : State) : Prop where
  | runs (ctx : t.run.ctx = some (.exitRecovery k)) (obeys : Obeys P t) (kept : Unfinished (some (.exitRecovery k)) s t)
  | ended (run : t.run = .reset) (status : t.ses.status = k) (kept : Unfinished (some (.exitRecovery k)) s t)

theorem Recovery.tick (h : Recovery P k s t) (point : pointOk t) : Recovery P k s (tick t) := by
  cases h with
  | ended run status kept =>
    rw [tick_idle (by rw [run]; rfl)]
    exact .ended run status kept
  | runs ctx obeys kept =>
    have goes {w : State} (g : GoesOn P t w) : Unfinished (some (.exitRecovery k)) s w := kept.trans (ctx ▸ g.unfinished)
    have ends {w : State} (g : GoesOn P t w) (b : Bool) (x : Executor) :
        Recovery P k s { w with ses := { w.ses with scratchSuspect := b, status := k }, exe := x, run := .reset } :=
      .ended rfl rfl ⟨(goes g).diag, (goes g).mode, fun c => (by cases c), (goes g).out⟩
    have react := reaction_tick obeys point
    generalize Machine.tick t = u at react ⊢
    cases react with
    | goes g => exact .runs (g.ctx.trans ctx) g.obeys (goes g)
    | fails g => rw [raise_exitRecovery (g.ctx.trans ctx)]; exact ends g _ _
    | passes g => rw [succeed_exitRecovery (g.ctx.trans ctx)]; exact ends g _ _
    | commits g batched => rw [ctx] at batched; cases batched

/-- The recovery reports the kind of its EXEC, and keeps S.diag, the mode and OUT. -/
theorem recovery_runToEnd (obeys : Obeys P s) (point : pointOk s) (ctx : s.run.ctx = some (.exitRecovery k))
    (idle : (runToEnd s).run.point = .idle) :
    (runToEnd s).ses.status = k ∧ Unfinished (some (.exitRecovery k)) s (runToEnd s) := by
  obtain ⟨recovery, fits⟩ := runToEnd_induct (P := fun t => Recovery P k s t ∧ pointOk t)
    (fun _ h => ⟨h.1.tick h.2, pointOk_tick h.2⟩) ⟨.runs ctx obeys ⟨rfl, rfl, fun _ => rfl, fun _ => rfl⟩, point⟩
  have none : (runToEnd s).run.ctx = none := congrArg Run.ctx (run_of_idle fits idle)
  cases recovery with
  | runs ctx => rw [ctx] at none; cases none
  | ended run status kept => exact ⟨status, kept⟩

/-! ## EXEC in batched mode fails -/

/-- A failure in the batched executor takes the error exit of EXEC (rules R290, R298). -/
theorem raise_execBatched (ctx : s.run.ctx = some .execBatched) (k : Kind) (r : Reason) :
    raise k r s =
      if (k = .desync ∨ k = .unexpectedReturn) ∧ recoveryProgram s.ses.isa s.ses.snap 0 31 ≠ [] then
        startSync (.exitRecovery k) (recoveryProgram s.ses.isa s.ses.snap 0 31) (recordFailure true r s)
      else endCommand k (recordFailure true r s) := by
  rw [raise, ctx]
  exact errorExit_exec true k r s

/-- A failed batch: the EXEC ends with its kind and its diagnostic record in SYNC, OUT is as it was, and the last observation is
the batch's own where no recovery follows (rules R231, R298, R300). -/
theorem exec_batched_fails (noError : s.que.error = false) (mode : s.ses.mode = .batched) (ne : s.que.entries ≠ []) {r : Reason}
    (fails : tick (startBatched s) = raise k r v) (ctx : v.run.ctx = some .execBatched) :
    ∃ t, exec .exec s = .next t ∧ t.ses.status = k ∧ t.ses.diag = diagnose r v ∧ t.ses.mode = .sync ∧ t.out = v.out ∧
      (noSnapshot v → t.ses.lastCtrl = v.ses.lastCtrl ∧ t.ses.lastAddr = v.ses.lastAddr) := by
  have run := Relation.ReflTransGen.single (r := fun s t => tick s = t) fails
  rw [raise_execBatched ctx] at run
  split at run
  case isTrue h =>
    have sync : isSyncCtx (.exitRecovery k) = true := rfl
    have ends := startSync_ends sync h.2 (recordFailure true r v)
    obtain ⟨status, kept⟩ := recovery_runToEnd
      (obeys_startSync (s := recordFailure true r v) (P := anyPolicy v.cfg 0) rfl trivial (fun _ _ => .inr trivial)
        fun _ _ he => recoveryProgram_addr he)
      (startSync_pointOk sync h.2 (recordFailure true r v)) rfl ends
    exact ⟨_, exec_batched_of_ticks noError mode ne (run.trans (ticks_runToEnd _)) ends, status, kept.diag, kept.mode,
      kept.out (by simp), fun noSnap => absurd (recoveryProgram_noSnapshot noSnap ..) h.2⟩
  case isFalse => exact ⟨_, exec_batched_of_ticks noError mode ne run rfl, rfl, rfl, rfl, rfl, fun _ => ⟨rfl, rfl⟩⟩

/-- A batch fails in the context of its EXEC, with OUT as it was; or it succeeds (rules R226, R230). -/
theorem tick_startBatched_cases (s : State) :
    (∃ k r v, tick (startBatched s) = raise k r v ∧ v.run.ctx = some .execBatched ∧ v.out = s.out) ∨
      ∃ v, tick (startBatched s) = endCommand .ok v := by
  have ctx : (startBatched s).run.ctx = some .execBatched := by rw [startBatched_eq]
  have out : (startBatched s).out = s.out := by rw [startBatched_eq]
  obtain ⟨v, failed, f⟩ | ⟨v, ran, f⟩ := execQueued_cases (startBatched s)
  · exact .inl ⟨_, _, v, tick_batch_failed failed, by rw [f.run, ctx], f.out.trans out⟩
  · rw [tick_batch_got ran, batchRan]
    generalize hl : (batchPlan s).map (fun p => (p.1, capturedRecord v p.2)) = log
    have frame := replayed_replay log [] (v.withLog (log.map Prod.snd))
    have ctx : (replay log [] (v.withLog (log.map Prod.snd))).2.2.run.ctx = some .execBatched :=
      (congrArg (·.run.ctx) frame :).trans (by rw [State.withLog_run, f.run, ctx])
    split
    case h_1 k r stage w e =>
      rw [e] at frame ctx
      exact .inl ⟨k, r, w, rfl, ctx, (congrArg State.out frame :).trans (f.out.trans out)⟩
    case h_2 stage w e =>
      rw [e] at ctx
      exact .inr ⟨_, succeed_own (.inr (.inl (by exact ctx)))⟩

theorem entries_ne_nil_of_buildSlots (h : buildSlots s.cfg s.que.entries ≠ []) : s.que.entries ≠ [] := fun empty =>
  h (by rw [empty]; rfl)

/-- Settles O50: a batch that ends with an error has failed, and its recovery keeps the mode and OUT; and the first record that
breaks its slot is the one that fails it. -/
theorem aFailedBatchDowngradesAndWritesNoOut : Obligations.AFailedBatchDowngradesAndWritesNoOut := by
  refine ⟨fun s t quiet noError ne mode next failed => ?_,
    fun s before slot r slots more fails k why quiet noError mode plan pass breaks room laid draws => ?_⟩
  · obtain ⟨k, r, v, fails, ctx, out⟩ | ⟨v, ends⟩ := tick_startBatched_cases s
    · obtain ⟨t', next', -, -, sync, kept, -⟩ := exec_batched_fails noError mode ne fails ctx
      cases next.symm.trans next'
      exact ⟨sync, kept.trans out⟩
    · cases next.symm.trans (exec_batched_of_ticks noError mode ne (.single ends) rfl)
      exact absurd rfl failed
  · have ne : s.que.entries ≠ [] := entries_ne_nil_of_buildSlots (by rw [plan]; simp)
    obtain ⟨u, ran⟩ := startBatched_ran draws
    have after : (more.take slots.length).length = slots.length := by rw [List.length_take, Nat.min_eq_left room]
    have batch : BatchRun s (before ++ (slot, r) :: slots.zip (more.take slots.length)) (more.drop slots.length) u :=
      batchRun_of_ran quiet.queued
        (by rw [plan, List.map_append, List.map_cons, List.map_fst_zip after.ge])
        (by rw [laid, List.map_append, List.map_cons, List.map_snd_zip after.le]; simp) ran
    obtain ⟨v, ends, ctx, ses, phase, out⟩ := batch.breaks (fun p hp => checkSlot_eq_none_iff.2 (pass p hp))
      (checkSlot_eq_some_iff.2 breaks)
    obtain ⟨t, next, status, diag, sync, kept, last⟩ :=
      exec_batched_fails noError mode ne ((tick_batch_got ran).trans ends) ctx
    rw [diagnose, phase, ses] at diag
    rw [noSnapshot, ses] at last
    exact ⟨t, next, status, by rw [diag], by rw [diag], by rw [diag], by rw [diag], sync, kept.trans out, last⟩

end Sys2Proof.Proofs
end

section
/-! SUPPORT. The equivalence of the two executors (rule R233): a batch that ends OK had its plan followed, and the synchronous
executor then stores the same words, with fetches past the program before its return. -/

namespace Sys2Proof.Proofs

open Sys2Proof.Machine Sys2Proof.Safety

variable {s t u : State} {c : Word} {accesses : List (Slot × Record)} {records : List Record} {words : List Word}
  {fails : List Bool} {out : Memory} {prog : List Entry} {n : Nat}

/-! ## A batch that ends OK -/

/-- A batched EXEC that ends OK on the records laid down had every record pass, and committed their stores (rules R226, R229). -/
theorem followsPlan_of_batched_ok (quiet : Quiet s) (noError : s.que.error = false) (mode : s.ses.mode = .batched)
    (ne : s.que.entries ≠ []) (plan : accesses.map Prod.fst = buildSlots s.cfg s.que.entries)
    (laid : s.input.records = accesses.map Prod.snd ++ records) (next : exec .exec s = .next t) (ok : t.ses.status = .ok) :
    FollowsPlan s.cfg s.que.entries accesses ∧ t.out = s.out.writeAll (storesOf s.cfg accesses) := by
  have noFailure {k : Kind} {r : Reason} {v : State} (kind : k ∈ r.kinds) (ctx : v.run.ctx = some .execBatched)
      (failed : tick (startBatched s) = raise k r v) : False := by
    obtain ⟨t', next', status, -⟩ := exec_batched_fails noError mode ne failed ctx
    cases next.symm.trans next'
    exact ne_ok_of_mem_kinds kind (status.symm.trans ok)
  obtain ⟨u, failed, f⟩ | ⟨u, ran, -⟩ := execQueued_cases (startBatched s)
  · exact (noFailure (by decide) (by rw [f.run, startBatched_eq]) (tick_batch_failed failed)).elim
  · cases first : accesses.findSome? fun p => checkSlot s.cfg s.que.entries p.1 p.2 with
    | some failure =>
      obtain ⟨before, ⟨slot, r⟩, after, rfl, check, pass⟩ := List.findSome?_eq_some_iff.1 first
      obtain ⟨v, ends, ctx, -⟩ := (batchRun_of_ran quiet.queued plan laid ran).breaks pass check
      exact (noFailure (checkSlot_kind check) ctx ((tick_batch_got ran).trans ends)).elim
    | none =>
      have follows : FollowsPlan s.cfg s.que.entries accesses := ⟨plan, List.findSome?_eq_none_iff.1 first⟩
      obtain ⟨t', next', -, -, -, out, -⟩ := exec_batched_commits quiet noError mode ne follows laid ran
      cases next.symm.trans next'
      exact ⟨follows, out⟩

/-! ## Fetches past the program (rules R181, R183) -/

/-- A fetch past the program is none at TEXT_BASE, as far as the addresses do not wrap (rule R62). -/
theorem textAddr_ne_textBase (cfg : Config) {k : Nat} (pos : 0 < k) (lt : k < 2 ^ 30) : textAddr cfg k ≠ cfg.textBase := by
  intro same
  have zero : BitVec.ofNat 32 (4 * k) = 0#32 := by simpa [textAddr] using same
  have := congrArg BitVec.toNat zero
  simp at this
  omega

/-- `t` is a synchronous EXEC whose program is fed, with no store expected, after `n` fetches past it; OUT is `out` with what is
deferred, and `words` and `fails` are left of the answers after that. -/
structure Padding (cfg : Config) (prog : List Entry) (out : Memory) (n : Nat) (words : List Word) (fails : List Bool) (t : State) :
    Prop where
  cfg : t.cfg = cfg
  context : t.run.ctx = some .execSync
  program : t.run.prog = prog
  point : t.run.point = .poll .cycle 0
  phase : t.exe.phase = .finalCheck
  count : t.exe.codeCount = prog.length + n
  expected : t.exe.storePending = 0
  noPass : t.exe.pass = false
  reads : Reads t out words
  fails : t.input.fails = fails

theorem Following.padding (h : Following s .execSync prog accesses prog.length 0 words fails t) :
    Padding s.cfg prog (s.out.writeAll (storesOf s.cfg accesses)) 0 words fails t where
  cfg := h.cfg
  context := h.context
  program := h.program
  point := h.point
  phase := h.progress.phase.trans (if_pos rfl)
  count := h.progress.count
  expected := h.progress.expected
  noPass := h.progress.noPass
  reads := h.reads
  fails := h.fails

/-- A fetch past the program, within the limit, is fed NOP. -/
theorem Padding.ticks_pad
    (h : Padding s.cfg prog out n (c :: textAddr s.cfg (prog.length + n) :: words) (false :: false :: fails) t)
    (fetch : isFetch s.cfg c) (away : textAddr s.cfg (prog.length + n) ≠ s.cfg.textBase)
    (within : n ≤ s.cfg.preReturnPadLimit) : ∃ u, Ticks t u ∧ Padding s.cfg prog out (n + 1) words fails u := by
  obtain ⟨v, run, seen⟩ := ticks_cycle (isStore := false) h.point h.reads h.fails (by rw [h.cfg]; exact fetch)
  have cfg : v.cfg = s.cfg := seen.cfg.trans h.cfg
  have program : v.run.prog = prog := seen.prog.trans h.program
  have phase : v.exe.phase = .finalCheck := by rw [seen.exe]; exact h.phase
  have count : v.exe.codeCount = prog.length + n := by rw [seen.exe]; exact h.count
  have noPass : v.exe.pass = false := by rw [seen.exe]; exact h.noPass
  have pads : fetchFinal (textAddr s.cfg (prog.length + n)) v = padFetch v :=
    (if_neg (by rw [cfg]; exact away)).trans (if_neg (by rw [cfg, count]; exact not_not.2 rfl))
  rw [takeAccess_final phase, pads, padFetch_feeds phase (fun left => Bool.noConfusion (noPass.symm.trans left.1))
    (fun _ => by rw [count, program, cfg]; omega) fun pass => Bool.noConfusion (noPass.symm.trans pass)] at run
  refine ⟨_, run, ?_⟩
  exact
    { cfg := cfg
      context := seen.ctx.trans h.context
      program := program
      point := rfl
      phase := phase
      count := congrArg (· + 1) count
      expected := (congrArg Executor.storePending seen.exe).trans h.expected
      noPass := noPass
      reads := .nothing (congrArg Executor.pending seen.exe) (by simp [queuesDiscards, portFed, seen.queued]) seen.out seen.words
      fails := seen.fails }

/-- So many fetches past the program. -/
theorem Padding.ticks_pads (fetch : isFetch s.cfg c) (ne : prog ≠ []) (within : n ≤ s.cfg.preReturnPadLimit + 1)
    (room : prog.length + n ≤ 2 ^ 30)
    (h : Padding s.cfg prog out 0 (((List.range n).flatMap fun j => [c, textAddr s.cfg (prog.length + j)]) ++ words)
      (List.replicate (2 * n) false ++ fails) t) :
    ∃ u, Ticks t u ∧ Padding s.cfg prog out n words fails u := by
  induction n generalizing words fails with
  | zero => exact ⟨t, .refl, h⟩
  | succ n ih =>
    rw [List.range_succ, List.flatMap_append, List.append_assoc, Nat.mul_succ, List.replicate_add, List.append_assoc] at h
    obtain ⟨u, run, padded⟩ := ih (by omega) (by omega) h
    have pos := List.length_pos_iff.2 ne
    obtain ⟨v, next, padded⟩ := padded.ticks_pad fetch (textAddr_ne_textBase _ (by omega) (by omega)) (by omega)
    exact ⟨v, run.trans next, padded⟩

/-- The return to TEXT_BASE drains the run, and its last read is in OUT (rules R181, R186). -/
theorem Padding.returns (h : Padding s.cfg prog out n (c :: s.cfg.textBase :: words) (false :: false :: false :: fails) t)
    (fetch : isFetch s.cfg c) : ∃ u, Ticks t (endCommand .ok u) ∧ u.out = out := by
  obtain ⟨v, run, seen⟩ := ticks_cycle (isStore := false) h.point h.reads h.fails (by rw [h.cfg]; exact fetch)
  have phase : v.exe.phase = .finalCheck := by rw [seen.exe]; exact h.phase
  rw [takeAccess_final phase, ← seen.cfg.trans h.cfg,
    fetchFinal_drains (by rw [seen.exe]; exact h.noPass) (by rw [seen.exe]; exact h.expected)] at run
  have drain := tick_drain (s := v.waitAt .drain) rfl
    (execQueued_got (by exact seen.fails) (queuesDiscards_of_nil (by exact seen.queued)))
  rw [drained, resolvePending_none (by exact congrArg Executor.pending seen.exe),
    succeed_own (.inl (by exact seen.ctx.trans h.context))] at drain
  exact ⟨_, run.tail drain, seen.out⟩

/-! ## The synchronous EXEC of the plan -/

/-- Every access of the plan is followed, and no store is left to come (rules R171 to R180, R222). -/
theorem following_planned {ctx : Ctx} (quiet : Quiet s) (ne : prog ≠ []) (addrs : ∀ e ∈ prog, storeOk s.cfg e.addr)
    (lastPlain : s.cfg.storeScanLag = .one → lastEntryPlain prog) (follows : FollowsPlan s.cfg prog accesses)
    (answers : s.input.words = accesses.flatMap accessWords ++ words)
    (draws : s.input.fails = List.replicate (2 * accesses.length) false ++ fails) :
    ∃ t, Ticks (startSync ctx prog s) t ∧ Following s ctx prog accesses prog.length 0 words fails t := by
  rw [replicate_two_mul] at draws
  obtain ⟨t, owed, run, following, count⟩ := following_slotsUpTo (ctx := ctx) quiet le_rfl ne addrs
    (follows.plan.trans (buildSlots_eq s.cfg prog)) (fun p hp => checkSlot_eq_none_iff.1 (follows.expected p hp)) answers
    draws
  obtain rfl : owed = 0 := by
    cases lag : s.cfg.storeScanLag with
    | zero => rw [lag, slotLag, Nat.sub_zero] at count; omega
    | one =>
      have plain : ¬ flagged prog (prog.length - 1) = true := by simpa using lastPlain lag
      have last := Nat.count_succ (flagged prog · = true) (prog.length - 1)
      rw [Nat.sub_add_cancel (List.length_pos_iff.2 ne), if_neg plain] at last
      rw [lag, slotLag] at count
      omega
  exact ⟨t, run, following⟩

/-- A synchronous EXEC whose target presents the accesses of the plan, fetches past the program, and a fetch at TEXT_BASE. -/
theorem exec_sync_padded {pads : Nat} (quiet : Quiet s) (noError : s.que.error = false) (mode : s.ses.mode = .sync)
    (ne : s.que.entries ≠ []) (inv : QueueInv s) (lastPlain : s.cfg.storeScanLag = .one → lastEntryPlain s.que.entries)
    (follows : FollowsPlan s.cfg s.que.entries accesses) (fetch : isFetch s.cfg c)
    (within : pads ≤ s.cfg.preReturnPadLimit + 1) (room : s.que.entries.length + pads ≤ 2 ^ 30)
    (answers : s.input.words =
      accesses.flatMap accessWords ++ ((List.range pads).flatMap fun j => [c, textAddr s.cfg (s.que.entries.length + j)]) ++
        [c, s.cfg.textBase])
    (draws : s.input.fails = List.replicate (2 * (accesses.length + pads + 1) + 1) false) :
    ∃ t, exec .exec s = .next t ∧ t.ses.status = .ok ∧ t.out = s.out.writeAll (storesOf s.cfg accesses) := by
  have draws : s.input.fails =
      List.replicate (2 * accesses.length) false ++ (List.replicate (2 * pads) false ++ [false, false, false]) := by
    rw [draws, show 2 * (accesses.length + pads + 1) + 1 = 2 * accesses.length + (2 * pads + 3) by omega, List.replicate_add,
      List.replicate_add]
    rfl
  rw [List.append_assoc] at answers
  obtain ⟨t, run, following⟩ := following_planned (ctx := .execSync) quiet ne inv.addrs lastPlain follows answers draws
  obtain ⟨u, on, padded⟩ := following.padding.ticks_pads fetch ne within room
  obtain ⟨v, back, out⟩ := padded.returns fetch
  exact ⟨_, exec_sync_of_ticks noError mode ne ((run.trans on).trans back) rfl, rfl, out⟩

/-- Settles O43: a batch that ends OK had its plan followed, and the synchronous executor follows it to the same stores. -/
theorem batchedAndSyncLeaveTheSameOut : Obligations.BatchedAndSyncLeaveTheSameOut := by
  intro s t records c pads quiet noError mode ne inv lastPlain fetch within room laid length next ok _ extra sync
  obtain ⟨follows, out⟩ := followsPlan_of_batched_ok (accesses := (buildSlots s.cfg s.que.entries).zip records) (records := [])
    quiet noError mode ne (List.map_fst_zip length.ge) (by rw [List.map_snd_zip length.le, List.append_nil, laid]) next ok
  have count : ((buildSlots s.cfg s.que.entries).zip records).length = records.length := by
    rw [List.length_zip, length, Nat.min_self]
  obtain ⟨t', next', ok', out'⟩ := exec_sync_padded (s := sync)
    ⟨quiet.run, quiet.phase, quiet.pending, quiet.log, quiet.queued⟩ noError rfl ne
    ⟨inv.count, inv.addrs, inv.room⟩ lastPlain follows fetch within room rfl (by rw [count])
  exact ⟨t', next', ok', out'.trans out.symm⟩

end Sys2Proof.Proofs
end

section
/-! SUPPORT. The session commands (rules R261 to R265): the records they decode from, the snapshot file cell by cell, and how long
a recovery program is. -/

namespace Sys2Proof.Proofs

open Sys2Proof.Machine Sys2Proof.Safety

variable {s : State} {isa : Isa} {snap : SnapFile} {first last : RegNum}

/-! ## Records with free bits (rules R81 to R83) -/

section
variable {w0 m v : Word} (record : w0 &&& m = v) (opcode : m.extractLsb' 0 4 = BitVec.allOnes 4)
include record opcode

/-- A record that is fixed under a mask has its opcode there, where the mask covers the opcode. -/
theorem opField_of_masked : opField w0 = opField v := by
  rw [opField, opField, ← record, BitVec.extractLsb'_and, opcode, BitVec.and_allOnes]

/-- Such a record is legal where the mask also covers every field that the opcode does not use, and these are 0. -/
theorem decode_of_masked (covers : m &&& unusedMask (opField v) = unusedMask (opField v))
    (unused : v &&& unusedMask (opField v) = 0#32) (w1 w2 : Word) :
    decode .command [w0, w1, w2] = .ok (commandOf w0 w1 w2) := by
  refine decodeCommand_legal ?_
  rw [opField_of_masked record opcode, ← covers, ← BitVec.and_assoc, record, unused]

end

/-! ## SET_MODE and SET_ISA (rules R261, R265) -/

/-- Settles O23: every bit of W0 but b14 is fixed, and the command is two updates of the session. -/
theorem setModeWritesTheMode : Obligations.SetModeWritesTheMode := by
  refine ⟨fun w0 w1 w2 record => ?_, fun _ _ => rfl⟩
  have op : opField w0 = 5#4 := opField_of_masked record rfl
  rw [decode_of_masked record rfl rfl rfl, commandOf, op]
  rfl

/-- Settles O24: every bit of W0 but b14 and b15 is fixed, and the command is two updates of the session. -/
theorem setIsaWritesTheFlags : Obligations.SetIsaWritesTheFlags := by
  refine ⟨fun w0 w1 w2 record => ?_, fun _ _ _ => rfl⟩
  have op : opField w0 = 8#4 := opField_of_masked record rfl
  rw [decode_of_masked record rfl rfl rfl, commandOf, op]
  rfl

/-! ## SET_SNAPSHOT (rule R262) -/

theorem snapGet_snapSet_same (f : SnapFile) (r : Scratch) (c : SnapCell) : snapGet (snapSet f r c) r = c := by
  cases r <;> rfl

theorem snapGet_snapSet_of_ne {q r : Scratch} (ne : q ≠ r) (f : SnapFile) (c : SnapCell) :
    snapGet (snapSet f r c) q = snapGet f q := by
  cases r <;> cases q <;> simp [snapGet, snapSet] at ne ⊢

theorem scratchOf_scratchNumber (r : Scratch) : scratchOf (scratchNumber r) = some r := by
  cases r <;> rfl

theorem mem_scratchSet (r : Scratch) : r ∈ scratchSet := by
  cases r <;> decide

theorem scratchOf_eq_none_iff (reg : RegNum) : scratchOf reg = none ↔ ∀ r, scratchNumber r ≠ reg := by
  simp [scratchOf, mem_scratchSet]

theorem exec_setSnapshot_scratch (r : Scratch) (value : Word) (s : State) :
    exec (.setSnapshot (scratchNumber r) value) s =
      .next
        { s with
          ses := { s.ses with snap := snapSet s.ses.snap r { value := value, valid := true }, status := .ok } } := by
  simp only [exec, execSetSnapshot, scratchOf_scratchNumber]
  rfl

theorem exec_setSnapshot_refused {reg : RegNum} (other : scratchOf reg = none) (value : Word) (s : State) :
    exec (.setSnapshot reg value) s = .next (errorExit none .illegal .badOperand s) := by
  simp only [exec, execSetSnapshot, other]

/-- Settles O25: the register names a cell, which is written, or none. -/
theorem setSnapshotWritesOneCell : Obligations.SetSnapshotWritesOneCell := by
  refine ⟨fun w0 w1 w2 record => ?_, fun s r value => ?_, fun s reg value quiet ne8 ne9 ne10 ne15 => ?_⟩
  · have op : opField w0 = 6#4 := opField_of_masked record rfl
    rw [decode_of_masked record rfl rfl rfl, commandOf, op]
    rfl
  · exact ⟨_, exec_setSnapshot_scratch r value s, rfl, snapGet_snapSet_same .., fun q ne => snapGet_snapSet_of_ne ne ..⟩
  · have other : scratchOf reg = none := (scratchOf_eq_none_iff reg).2 fun
      | .r8 => ne8.symm
      | .r9 => ne9.symm
      | .r10 => ne10.symm
      | .r15 => ne15.symm
    rw [exec_setSnapshot_refused other, errorExit_none_quiet quiet]

/-! ## The recovery program (rule R264) -/

/-- The words that load the valid registers of the range, for either instruction set. -/
def recoveryLoads (isa : Isa) (snap : SnapFile) (first last : RegNum) : List Word :=
  scratchSet.flatMap fun r =>
    if inRange first last (scratchNumber r) && (snapGet snap r).valid then
      liWords isa (scratchNumber r) true (snapGet snap r).value
    else []

theorem recoveryProgram_eq (isa : Isa) (snap : SnapFile) (first last : RegNum) :
    recoveryProgram isa snap first last =
      if recoveryLoads isa snap first last = [] then []
      else
        (recoveryLoads isa snap first last ++
          [bFor isa (-(BitVec.ofNat 16 ((recoveryLoads isa snap first last).length + 1))), nopFor isa]).map plainEntry := rfl

/-- Every load has a word, so that there is none only where no register is loaded. -/
theorem recoveryLoads_eq_nil_iff : recoveryLoads isa snap first last = [] ↔
    ∀ r, (snapGet snap r).valid = true → ¬ (first ≤ scratchNumber r ∧ scratchNumber r ≤ last) := by
  rw [recoveryLoads, List.flatMap_eq_nil_iff]
  refine forall_congr' fun r => ?_
  rw [imp_iff_right (mem_scratchSet r), ite_eq_right_iff, Bool.and_eq_true, inRange_iff]
  simp only [liWords_ne_nil, imp_false, not_and']

/-- The branch and its delay slot stand after the loads. -/
theorem recoveryProgram_length (loads : recoveryLoads isa snap first last ≠ []) :
    (recoveryProgram isa snap first last).length = (recoveryLoads isa snap first last).length + 2 := by
  rw [recoveryProgram_eq, if_neg loads, List.length_map, List.length_append]
  rfl

theorem recoveryProgram_eq_nil_iff : recoveryProgram isa snap first last = [] ↔ recoveryLoads isa snap first last = [] := by
  refine ⟨fun empty => by_contra fun loads => ?_, fun empty => if_pos empty⟩
  have length := recoveryProgram_length loads
  rw [empty] at length
  cases length

/-- Settles O28: a program that is not empty has a load, a branch and its delay slot. -/
theorem recoveryProgramsHaveThreeToTenWords : Obligations.RecoveryProgramsHaveThreeToTenWords := by
  intro isa snap first last prog
  refine ⟨recoveryProgram_eq_nil_iff.trans recoveryLoads_eq_nil_iff,
    fun ne => ⟨?_, recoveryProgram_length_le ..⟩, fun _ => recoveryProgram_addr⟩
  have loads := mt recoveryProgram_eq_nil_iff.2 ne
  rw [recoveryProgram_length loads]
  exact Nat.add_le_add_right (List.length_pos_iff.2 loads) 2

/-! ## RECOVER without a run (rule R263) -/

theorem startRecover_inverted (inverted : last < first) (s : State) :
    startRecover first last s = errorExit none .illegal .badOperand s := if_pos inverted

theorem startRecover_nothing (ordered : first ≤ last) (empty : recoveryProgram s.ses.isa s.ses.snap first last = []) :
    startRecover first last s = s.withStatus .ok := by
  rw [startRecover, if_neg (BitVec.not_lt.2 ordered), startRecovery, empty]

theorem exec_recover (first last : RegNum) (s : State) :
    exec (.recover first last) s = .next (runToEnd (startRecover first last s)) := rfl

/-- Settles O26: the command ends before it starts a run. -/
theorem recoverWithNothingToRestore : Obligations.RecoverWithNothingToRestore := by
  refine ⟨fun s first last quiet inverted => ?_, fun s first last quiet ordered nothing => ?_⟩
  · rw [exec_recover, startRecover_inverted inverted, runToEnd_errorExit_none, errorExit_none_quiet quiet]
  · have empty := recoveryProgram_eq_nil_iff.2 (recoveryLoads_eq_nil_iff (isa := s.ses.isa).2 nothing)
    have ends : (s.withStatus .ok).run.point = .idle := congrArg Run.point quiet.run
    rw [exec_recover, startRecover_nothing ordered empty, runToEnd_eq_self ends]
    rfl

end Sys2Proof.Proofs
end

section
/-! SUPPORT. The values at session open (rules R330, R331): those of an idle machine come from the reset state being quiet. -/

namespace Sys2Proof.Proofs

open Sys2Proof.Machine Sys2Proof.Safety

/-- S.valid[r] is 0 for every r in SCRATCH_SET (rule R331). -/
theorem noSnapshot_resetWith (cfg : Config) : noSnapshot (State.resetWith cfg) := ⟨rfl, rfl, rfl, rfl⟩

/-- The default of INITIAL_MODE (P19) is what `Config.boot` takes. -/
theorem reset_mode : State.reset.ses.mode = .sync := rfl

/-- Settles O1: `State.resetWith` lists the values of rule R331, and the parameters give the mode. -/
theorem resetGivesTheStatedValues : Obligations.ResetGivesTheStatedValues := by
  intro cfg
  obtain ⟨-, quiet⟩ := resetMeetsTheInvariant cfg
  exact ⟨rfl, rfl, noSnapshot_resetWith cfg, rfl, rfl, rfl, rfl, rfl, quiet.phase, quiet.log, rfl, reset_mode⟩

end Sys2Proof.Proofs
end
